-- ==== Sys2Proof/Word.lean ====
section
/-! DEFINITION. The widths of the OpenRISC 1200 (00_scope.md R5, 10_state.md R20, 30_encoding.md R70): a general register, the
program counter and an address are 32 bits, a register field 5 bits, memory is made of bytes. -/

namespace Sys2Proof

/-- A general register, the pc, an address, an instruction word: 32 bits (00_scope.md R5). Bit 0 is the least significant (R8). -/
abbrev Word := BitVec 32

/-- One byte of memory. -/
abbrev Byte := BitVec 8

/-- A register field of an instruction, r0 to r31 (10_state.md R20). -/
abbrev Reg := BitVec 5

/-- A 16-bit immediate field, I or K (30_encoding.md R72). -/
abbrev Half := BitVec 16

end Sys2Proof
end

