-- ==== Sys2Proof/Syntax.lean ====
section
/-! DEFINITION. The instructions, one constructor for each of the 84 rows of spec/opcode_table.json, in the table's order. Operands are
named as the encoding names the fields: `d`, `a`, `b` the register fields D, A, B; `i` an immediate that the instruction sign-extends;
`k` a 16-bit constant; `n` the 26-bit word offset; `l` the 6-bit shift amount of which bit 5 is reserved (49_base_isa_supplement_b.md R247).
The split immediate of the stores and of l.mtspr is one 16-bit operand, `insn[25:21] ++ insn[10:0]` (48_base_isa_supplement_a.md R200). -/

namespace Sys2Proof

/-- An instruction of the OpenRISC 1200 (30_encoding.md R73, R83). -/
inductive Instr where
  | add (d a b : Reg)
  | addc (d a b : Reg)
  | mul (d a b : Reg)
  | div (d a b : Reg)
  | divu (d a b : Reg)
  | mulu (d a b : Reg)
  | ff1 (d a : Reg)
  | fl1 (d a : Reg)
  | addi (d a : Reg) (i : Half)
  | addic (d a : Reg) (i : Half)
  | xori (d a : Reg) (k : Half)
  | muli (d a : Reg) (i : Half)
  | maci (a : Reg) (i : Half)
  | jr (b : Reg)
  | jalr (b : Reg)
  | maddS (d a b : Reg)
  | maddD (d a b : Reg)
  | j (n : BitVec 26)
  | jal (n : BitVec 26)
  | bnf (n : BitVec 26)
  | bf (n : BitVec 26)
  | nop (k : Half)
  | movhi (d : Reg) (k : Half)
  | macrc (d : Reg)
  | sys (k : Half)
  | trap (k : Half)
  | msync
  | psync
  | csync
  | rfe
  | lwz (d a : Reg) (i : Half)
  | lws (d a : Reg) (i : Half)
  | lbz (d a : Reg) (i : Half)
  | lbs (d a : Reg) (i : Half)
  | lhz (d a : Reg) (i : Half)
  | lhs (d a : Reg) (i : Half)
  | mfspr (d a : Reg) (k : Half)
  | mtspr (a b : Reg) (k : Half)
  | sw (a b : Reg) (i : Half)
  | sb (a b : Reg) (i : Half)
  | sh (a b : Reg) (i : Half)
  | sub (d a b : Reg)
  | and (d a b : Reg)
  | or (d a b : Reg)
  | xor (d a b : Reg)
  | cmov (d a b : Reg)
  | andi (d a : Reg) (k : Half)
  | ori (d a : Reg) (k : Half)
  | sll (d a b : Reg)
  | srl (d a b : Reg)
  | sra (d a b : Reg)
  | ror (d a b : Reg)
  | slli (d a : Reg) (l : BitVec 6)
  | srli (d a : Reg) (l : BitVec 6)
  | srai (d a : Reg) (l : BitVec 6)
  | rori (d a : Reg) (l : BitVec 6)
  | exths (d a : Reg)
  | extbs (d a : Reg)
  | exthz (d a : Reg)
  | extbz (d a : Reg)
  | extws (d a : Reg)
  | extwz (d a : Reg)
  | sfeq (a b : Reg)
  | sfne (a b : Reg)
  | sfgtu (a b : Reg)
  | sfgeu (a b : Reg)
  | sfltu (a b : Reg)
  | sfleu (a b : Reg)
  | sfgts (a b : Reg)
  | sfges (a b : Reg)
  | sflts (a b : Reg)
  | sfles (a b : Reg)
  | sfeqi (a : Reg) (i : Half)
  | sfnei (a : Reg) (i : Half)
  | sfgtui (a : Reg) (i : Half)
  | sfgeui (a : Reg) (i : Half)
  | sfltui (a : Reg) (i : Half)
  | sfleui (a : Reg) (i : Half)
  | sfgtsi (a : Reg) (i : Half)
  | sfgesi (a : Reg) (i : Half)
  | sfltsi (a : Reg) (i : Half)
  | sflesi (a : Reg) (i : Half)
  | mac (a b : Reg)
  | msb (a b : Reg)
  deriving DecidableEq, Repr

end Sys2Proof
end

