-- ==== Sys2Proof/WellFormed.lean ====
section
/-! DEFINITION. Which instructions can be encoded on this hardware. The operand widths are in the types of Syntax.lean; the one check
left is the reserved bit 5 of the shift amount (49_base_isa_supplement_b.md R247). `l.jalr` with B = 9 is well formed: it has an encoding,
and executing it raises the Illegal Instruction exception (30_encoding.md R78). -/

namespace Sys2Proof

/-- The shift amount field L has its reserved bit 5 clear (R247: "This spec treats bit 5 of L as reserved"). -/
def shiftAmountOk (l : BitVec 6) : Bool := !l.getLsbD 5

/-- Instructions that have an encoding without reserved bits. -/
def Instr.wellFormed : Instr → Bool
  | .slli _ _ l => shiftAmountOk l
  | .srli _ _ l => shiftAmountOk l
  | .srai _ _ l => shiftAmountOk l
  | .rori _ _ l => shiftAmountOk l
  | .add .. | .addc .. | .mul .. | .div .. | .divu .. | .mulu .. | .ff1 .. | .fl1 .. | .addi .. | .addic .. | .xori .. | .muli ..
  | .maci .. | .jr .. | .jalr .. | .maddS .. | .maddD .. | .j .. | .jal .. | .bnf .. | .bf .. | .nop .. | .movhi .. | .macrc ..
  | .sys .. | .trap .. | .msync | .psync | .csync | .rfe | .lwz .. | .lws .. | .lbz .. | .lbs .. | .lhz .. | .lhs .. | .mfspr ..
  | .mtspr .. | .sw .. | .sb .. | .sh .. | .sub .. | .and .. | .or .. | .xor .. | .cmov .. | .andi .. | .ori .. | .sll .. | .srl ..
  | .sra .. | .ror .. | .exths .. | .extbs .. | .exthz .. | .extbz .. | .extws .. | .extwz .. | .sfeq .. | .sfne .. | .sfgtu ..
  | .sfgeu .. | .sfltu .. | .sfleu .. | .sfgts .. | .sfges .. | .sflts .. | .sfles .. | .sfeqi .. | .sfnei .. | .sfgtui ..
  | .sfgeui .. | .sfltui .. | .sfleui .. | .sfgtsi .. | .sfgesi .. | .sfltsi .. | .sflesi .. | .mac .. | .msb .. => true

end Sys2Proof
end

