-- ==== Sys2Proof/Decode.lean ====
section
/-! DEFINITION. The decoder and the encoder, from 30_encoding.md and spec/opcode_table.json. The decoder is total on any bytes: it answers
an instruction or says by name why the word has none. -/

namespace Sys2Proof

/-- Why a word (or a byte string) is no instruction. -/
inductive DecodeError where
  /-- A row matches but a reserved bit is 1 (30_encoding.md R77). -/
  | reservedBitsSet
  /-- No row matches (30_encoding.md R79). -/
  | noSuchInstruction
  /-- No row matches and the major opcode is one of l.cust1 to l.cust8 (49_base_isa_supplement_b.md R290). -/
  | customInstruction
  /-- Fewer than four bytes: every instruction is one 32-bit word (30_encoding.md R70). -/
  | truncated
  deriving DecidableEq, Repr

/-! ## Fields of a word (30_encoding.md R71, 48_base_isa_supplement_a.md R200) -/

/-- Bits 31:26, the major opcode. -/
def majorOpcode (w : Word) : BitVec 6 := w.extractLsb' 26 6
/-- Field D, bits 25:21. -/
def fieldD (w : Word) : Reg := w.extractLsb' 21 5
/-- Field A, bits 20:16. -/
def fieldA (w : Word) : Reg := w.extractLsb' 16 5
/-- Field B, bits 15:11. -/
def fieldB (w : Word) : Reg := w.extractLsb' 11 5
/-- Field I or K, bits 15:0. -/
def fieldImm (w : Word) : Half := w.extractLsb' 0 16
/-- The split immediate, `insn[25:21] ++ insn[10:0]`. -/
def fieldSplit (w : Word) : Half := w.extractLsb' 21 5 ++ w.extractLsb' 0 11
/-- Field N, bits 25:0. -/
def fieldN (w : Word) : BitVec 26 := w.extractLsb' 0 26
/-- Field L, bits 5:0. -/
def fieldL (w : Word) : BitVec 6 := w.extractLsb' 0 6

/-- `d` in bits 25:21. -/
def putD (d : Reg) : Word := d.setWidth 32 <<< 21
/-- `a` in bits 20:16. -/
def putA (a : Reg) : Word := a.setWidth 32 <<< 16
/-- `b` in bits 15:11. -/
def putB (b : Reg) : Word := b.setWidth 32 <<< 11
/-- `i` in bits 15:0. -/
def putImm (i : Half) : Word := i.setWidth 32
/-- `i[15:11]` in bits 25:21 and `i[10:0]` in bits 10:0. -/
def putSplit (i : Half) : Word := putD (i.extractLsb' 11 5) ||| (i.extractLsb' 0 11).setWidth 32
/-- `n` in bits 25:0. -/
def putN (n : BitVec 26) : Word := n.setWidth 32
/-- `l` in bits 5:0. -/
def putL (l : BitVec 6) : Word := l.setWidth 32

/-! ## The opcode table -/

/-- A row of the opcode table: `value` is its `match` (the word with every operand and reserved bit 0), `mask` the bits the row fixes,
`reserved` the bits that must be 0, `build` the instruction whose operands are the word's fields. -/
structure Row where
  mnemonic : String
  value : Word
  mask : Word
  reserved : Word
  build : Word → Instr

/-- A word selects a row when its `mask` bits are the row's (30_encoding.md R73). -/
def Row.selects (r : Row) (w : Word) : Bool := w &&& r.mask == r.value

/-- l.add (30_encoding.md R73, R102): `111000DDDDDAAAAABBBBB-00----0000`. -/
def rowAdd : Row :=
  ⟨"l.add", 0xE0000000, 0xFC00030F, 0x000004F0, fun w => .add (fieldD w) (fieldA w) (fieldB w)⟩

/-- l.addc (30_encoding.md R73, R103): `111000DDDDDAAAAABBBBB-00----0001`. -/
def rowAddc : Row :=
  ⟨"l.addc", 0xE0000001, 0xFC00030F, 0x000004F0, fun w => .addc (fieldD w) (fieldA w) (fieldB w)⟩

/-- l.mul (30_encoding.md R73, R132): `111000DDDDDAAAAABBBBB-11----0110`. -/
def rowMul : Row :=
  ⟨"l.mul", 0xE0000306, 0xFC00030F, 0x000004F0, fun w => .mul (fieldD w) (fieldA w) (fieldB w)⟩

/-- l.div (30_encoding.md R73, R112): `111000DDDDDAAAAABBBBB-11----1001`. -/
def rowDiv : Row :=
  ⟨"l.div", 0xE0000309, 0xFC00030F, 0x000004F0, fun w => .div (fieldD w) (fieldA w) (fieldB w)⟩

/-- l.divu (30_encoding.md R73, R113): `111000DDDDDAAAAABBBBB-11----1010`. -/
def rowDivu : Row :=
  ⟨"l.divu", 0xE000030A, 0xFC00030F, 0x000004F0, fun w => .divu (fieldD w) (fieldA w) (fieldB w)⟩

/-- l.mulu (30_encoding.md R73, R134): `111000DDDDDAAAAABBBBB-11----1011`. -/
def rowMulu : Row :=
  ⟨"l.mulu", 0xE000030B, 0xFC00030F, 0x000004F0, fun w => .mulu (fieldD w) (fieldA w) (fieldB w)⟩

/-- l.ff1 (30_encoding.md R73, R115): `111000DDDDDAAAAA------00----1111`. -/
def rowFf1 : Row :=
  ⟨"l.ff1", 0xE000000F, 0xFC00030F, 0x0000FCF0, fun w => .ff1 (fieldD w) (fieldA w)⟩

/-- l.fl1 (30_encoding.md R73, R116): `111000DDDDDAAAAA------01----1111`. -/
def rowFl1 : Row :=
  ⟨"l.fl1", 0xE000010F, 0xFC00030F, 0x0000FCF0, fun w => .fl1 (fieldD w) (fieldA w)⟩

/-- l.addi (30_encoding.md R73, R104): `100111DDDDDAAAAAIIIIIIIIIIIIIIII`. -/
def rowAddi : Row :=
  ⟨"l.addi", 0x9C000000, 0xFC000000, 0x00000000, fun w => .addi (fieldD w) (fieldA w) (fieldImm w)⟩

/-- l.addic (30_encoding.md R73, R105): `101000DDDDDAAAAAIIIIIIIIIIIIIIII`. -/
def rowAddic : Row :=
  ⟨"l.addic", 0xA0000000, 0xFC000000, 0x00000000, fun w => .addic (fieldD w) (fieldA w) (fieldImm w)⟩

/-- l.xori (30_encoding.md R73, R140): `101011DDDDDAAAAAKKKKKKKKKKKKKKKK`. -/
def rowXori : Row :=
  ⟨"l.xori", 0xAC000000, 0xFC000000, 0x00000000, fun w => .xori (fieldD w) (fieldA w) (fieldImm w)⟩

/-- l.muli (30_encoding.md R73, R133): `101100DDDDDAAAAAIIIIIIIIIIIIIIII`. -/
def rowMuli : Row :=
  ⟨"l.muli", 0xB0000000, 0xFC000000, 0x00000000, fun w => .muli (fieldD w) (fieldA w) (fieldImm w)⟩

/-- l.maci (30_encoding.md R73, R131): `010011-----AAAAAIIIIIIIIIIIIIIII`. -/
def rowMaci : Row :=
  ⟨"l.maci", 0x4C000000, 0xFC000000, 0x03E00000, fun w => .maci (fieldA w) (fieldImm w)⟩

/-- l.jr (30_encoding.md R73, R122): `010001----------BBBBB-----------`. -/
def rowJr : Row :=
  ⟨"l.jr", 0x44000000, 0xFC000000, 0x03FF07FF, fun w => .jr (fieldB w)⟩

/-- l.jalr (30_encoding.md R73, R121): `010010----------BBBBB-----------`. -/
def rowJalr : Row :=
  ⟨"l.jalr", 0x48000000, 0xFC000000, 0x03FF07FF, fun w => .jalr (fieldB w)⟩

/-- lf.madd.s (30_encoding.md R73, R147): `110010DDDDDAAAAABBBBB---00000111`. -/
def rowMaddS : Row :=
  ⟨"lf.madd.s", 0xC8000007, 0xFC0000FF, 0x00000700, fun w => .maddS (fieldD w) (fieldA w) (fieldB w)⟩

/-- lf.madd.d (30_encoding.md R73, R146): `110010DDDDDAAAAABBBBB---00010111`. -/
def rowMaddD : Row :=
  ⟨"lf.madd.d", 0xC8000017, 0xFC0000FF, 0x00000700, fun w => .maddD (fieldD w) (fieldA w) (fieldB w)⟩

/-- l.j (48_base_isa_supplement_a.md R201): `000000NNNNNNNNNNNNNNNNNNNNNNNNNN`. -/
def rowJ : Row :=
  ⟨"l.j", 0x00000000, 0xFC000000, 0x00000000, fun w => .j (fieldN w)⟩

/-- l.jal (48_base_isa_supplement_a.md R202): `000001NNNNNNNNNNNNNNNNNNNNNNNNNN`. -/
def rowJal : Row :=
  ⟨"l.jal", 0x04000000, 0xFC000000, 0x00000000, fun w => .jal (fieldN w)⟩

/-- l.bnf (48_base_isa_supplement_a.md R203): `000011NNNNNNNNNNNNNNNNNNNNNNNNNN`. -/
def rowBnf : Row :=
  ⟨"l.bnf", 0x0C000000, 0xFC000000, 0x00000000, fun w => .bnf (fieldN w)⟩

/-- l.bf (48_base_isa_supplement_a.md R204): `000100NNNNNNNNNNNNNNNNNNNNNNNNNN`. -/
def rowBf : Row :=
  ⟨"l.bf", 0x10000000, 0xFC000000, 0x00000000, fun w => .bf (fieldN w)⟩

/-- l.nop (48_base_isa_supplement_a.md R205): `00010101--------KKKKKKKKKKKKKKKK`. -/
def rowNop : Row :=
  ⟨"l.nop", 0x15000000, 0xFF000000, 0x00FF0000, fun w => .nop (fieldImm w)⟩

/-- l.movhi (48_base_isa_supplement_a.md R206): `000110DDDDD----0KKKKKKKKKKKKKKKK`. -/
def rowMovhi : Row :=
  ⟨"l.movhi", 0x18000000, 0xFC010000, 0x001E0000, fun w => .movhi (fieldD w) (fieldImm w)⟩

/-- l.macrc (48_base_isa_supplement_a.md R207): `000110DDDDD----10000000000000000`. -/
def rowMacrc : Row :=
  ⟨"l.macrc", 0x18010000, 0xFC01FFFF, 0x001E0000, fun w => .macrc (fieldD w)⟩

/-- l.sys (48_base_isa_supplement_a.md R208): `0010000000000000KKKKKKKKKKKKKKKK`. -/
def rowSys : Row :=
  ⟨"l.sys", 0x20000000, 0xFFFF0000, 0x00000000, fun w => .sys (fieldImm w)⟩

/-- l.trap (48_base_isa_supplement_a.md R209): `0010000100000000KKKKKKKKKKKKKKKK`. -/
def rowTrap : Row :=
  ⟨"l.trap", 0x21000000, 0xFFFF0000, 0x00000000, fun w => .trap (fieldImm w)⟩

/-- l.msync (48_base_isa_supplement_a.md R211): `00100010000---------------------`. -/
def rowMsync : Row :=
  ⟨"l.msync", 0x22000000, 0xFFE00000, 0x001FFFFF, fun _ => .msync⟩

/-- l.psync (48_base_isa_supplement_a.md R212): `00100010100---------------------`. -/
def rowPsync : Row :=
  ⟨"l.psync", 0x22800000, 0xFFE00000, 0x001FFFFF, fun _ => .psync⟩

/-- l.csync (48_base_isa_supplement_a.md R213): `00100011000---------------------`. -/
def rowCsync : Row :=
  ⟨"l.csync", 0x23000000, 0xFFE00000, 0x001FFFFF, fun _ => .csync⟩

/-- l.rfe (48_base_isa_supplement_a.md R214): `001001--------------------------`. -/
def rowRfe : Row :=
  ⟨"l.rfe", 0x24000000, 0xFC000000, 0x03FFFFFF, fun _ => .rfe⟩

/-- l.lwz (48_base_isa_supplement_a.md R219): `100001DDDDDAAAAAIIIIIIIIIIIIIIII`. -/
def rowLwz : Row :=
  ⟨"l.lwz", 0x84000000, 0xFC000000, 0x00000000, fun w => .lwz (fieldD w) (fieldA w) (fieldImm w)⟩

/-- l.lws (48_base_isa_supplement_a.md R220): `100010DDDDDAAAAAIIIIIIIIIIIIIIII`. -/
def rowLws : Row :=
  ⟨"l.lws", 0x88000000, 0xFC000000, 0x00000000, fun w => .lws (fieldD w) (fieldA w) (fieldImm w)⟩

/-- l.lbz (48_base_isa_supplement_a.md R221): `100011DDDDDAAAAAIIIIIIIIIIIIIIII`. -/
def rowLbz : Row :=
  ⟨"l.lbz", 0x8C000000, 0xFC000000, 0x00000000, fun w => .lbz (fieldD w) (fieldA w) (fieldImm w)⟩

/-- l.lbs (48_base_isa_supplement_a.md R222): `100100DDDDDAAAAAIIIIIIIIIIIIIIII`. -/
def rowLbs : Row :=
  ⟨"l.lbs", 0x90000000, 0xFC000000, 0x00000000, fun w => .lbs (fieldD w) (fieldA w) (fieldImm w)⟩

/-- l.lhz (48_base_isa_supplement_a.md R223): `100101DDDDDAAAAAIIIIIIIIIIIIIIII`. -/
def rowLhz : Row :=
  ⟨"l.lhz", 0x94000000, 0xFC000000, 0x00000000, fun w => .lhz (fieldD w) (fieldA w) (fieldImm w)⟩

/-- l.lhs (48_base_isa_supplement_a.md R224): `100110DDDDDAAAAAIIIIIIIIIIIIIIII`. -/
def rowLhs : Row :=
  ⟨"l.lhs", 0x98000000, 0xFC000000, 0x00000000, fun w => .lhs (fieldD w) (fieldA w) (fieldImm w)⟩

/-- l.mfspr (48_base_isa_supplement_a.md R215): `101101DDDDDAAAAAKKKKKKKKKKKKKKKK`. -/
def rowMfspr : Row :=
  ⟨"l.mfspr", 0xB4000000, 0xFC000000, 0x00000000, fun w => .mfspr (fieldD w) (fieldA w) (fieldImm w)⟩

/-- l.mtspr (48_base_isa_supplement_a.md R216): `110000KKKKKAAAAABBBBBKKKKKKKKKKK`. -/
def rowMtspr : Row :=
  ⟨"l.mtspr", 0xC0000000, 0xFC000000, 0x00000000, fun w => .mtspr (fieldA w) (fieldB w) (fieldSplit w)⟩

/-- l.sw (48_base_isa_supplement_a.md R225): `110101IIIIIAAAAABBBBBIIIIIIIIIII`. -/
def rowSw : Row :=
  ⟨"l.sw", 0xD4000000, 0xFC000000, 0x00000000, fun w => .sw (fieldA w) (fieldB w) (fieldSplit w)⟩

/-- l.sb (48_base_isa_supplement_a.md R226): `110110IIIIIAAAAABBBBBIIIIIIIIIII`. -/
def rowSb : Row :=
  ⟨"l.sb", 0xD8000000, 0xFC000000, 0x00000000, fun w => .sb (fieldA w) (fieldB w) (fieldSplit w)⟩

/-- l.sh (48_base_isa_supplement_a.md R227): `110111IIIIIAAAAABBBBBIIIIIIIIIII`. -/
def rowSh : Row :=
  ⟨"l.sh", 0xDC000000, 0xFC000000, 0x00000000, fun w => .sh (fieldA w) (fieldB w) (fieldSplit w)⟩

/-- l.sub (49_base_isa_supplement_b.md R241): `111000DDDDDAAAAABBBBB-00----0010`. -/
def rowSub : Row :=
  ⟨"l.sub", 0xE0000002, 0xFC00030F, 0x000004F0, fun w => .sub (fieldD w) (fieldA w) (fieldB w)⟩

/-- l.and (49_base_isa_supplement_b.md R242): `111000DDDDDAAAAABBBBB-00----0011`. -/
def rowAnd : Row :=
  ⟨"l.and", 0xE0000003, 0xFC00030F, 0x000004F0, fun w => .and (fieldD w) (fieldA w) (fieldB w)⟩

/-- l.or (49_base_isa_supplement_b.md R243): `111000DDDDDAAAAABBBBB-00----0100`. -/
def rowOr : Row :=
  ⟨"l.or", 0xE0000004, 0xFC00030F, 0x000004F0, fun w => .or (fieldD w) (fieldA w) (fieldB w)⟩

/-- l.xor (49_base_isa_supplement_b.md R244): `111000DDDDDAAAAABBBBB-00----0101`. -/
def rowXor : Row :=
  ⟨"l.xor", 0xE0000005, 0xFC00030F, 0x000004F0, fun w => .xor (fieldD w) (fieldA w) (fieldB w)⟩

/-- l.cmov (49_base_isa_supplement_b.md R262): `111000DDDDDAAAAABBBBB-00----1110`. -/
def rowCmov : Row :=
  ⟨"l.cmov", 0xE000000E, 0xFC00030F, 0x000004F0, fun w => .cmov (fieldD w) (fieldA w) (fieldB w)⟩

/-- l.andi (49_base_isa_supplement_b.md R245): `101001DDDDDAAAAAKKKKKKKKKKKKKKKK`. -/
def rowAndi : Row :=
  ⟨"l.andi", 0xA4000000, 0xFC000000, 0x00000000, fun w => .andi (fieldD w) (fieldA w) (fieldImm w)⟩

/-- l.ori (49_base_isa_supplement_b.md R246): `101010DDDDDAAAAAKKKKKKKKKKKKKKKK`. -/
def rowOri : Row :=
  ⟨"l.ori", 0xA8000000, 0xFC000000, 0x00000000, fun w => .ori (fieldD w) (fieldA w) (fieldImm w)⟩

/-- l.sll (49_base_isa_supplement_b.md R248): `111000DDDDDAAAAABBBBB-0000--1000`. -/
def rowSll : Row :=
  ⟨"l.sll", 0xE0000008, 0xFC0003CF, 0x00000430, fun w => .sll (fieldD w) (fieldA w) (fieldB w)⟩

/-- l.srl (49_base_isa_supplement_b.md R249): `111000DDDDDAAAAABBBBB-0001--1000`. -/
def rowSrl : Row :=
  ⟨"l.srl", 0xE0000048, 0xFC0003CF, 0x00000430, fun w => .srl (fieldD w) (fieldA w) (fieldB w)⟩

/-- l.sra (49_base_isa_supplement_b.md R250): `111000DDDDDAAAAABBBBB-0010--1000`. -/
def rowSra : Row :=
  ⟨"l.sra", 0xE0000088, 0xFC0003CF, 0x00000430, fun w => .sra (fieldD w) (fieldA w) (fieldB w)⟩

/-- l.ror (49_base_isa_supplement_b.md R251): `111000DDDDDAAAAABBBBB-0011--1000`. -/
def rowRor : Row :=
  ⟨"l.ror", 0xE00000C8, 0xFC0003CF, 0x00000430, fun w => .ror (fieldD w) (fieldA w) (fieldB w)⟩

/-- l.slli (49_base_isa_supplement_b.md R252): `101110DDDDDAAAAA--------00-LLLLL`. -/
def rowSlli : Row :=
  ⟨"l.slli", 0xB8000000, 0xFC0000C0, 0x0000FF20, fun w => .slli (fieldD w) (fieldA w) (fieldL w)⟩

/-- l.srli (49_base_isa_supplement_b.md R253): `101110DDDDDAAAAA--------01-LLLLL`. -/
def rowSrli : Row :=
  ⟨"l.srli", 0xB8000040, 0xFC0000C0, 0x0000FF20, fun w => .srli (fieldD w) (fieldA w) (fieldL w)⟩

/-- l.srai (49_base_isa_supplement_b.md R254): `101110DDDDDAAAAA--------10-LLLLL`. -/
def rowSrai : Row :=
  ⟨"l.srai", 0xB8000080, 0xFC0000C0, 0x0000FF20, fun w => .srai (fieldD w) (fieldA w) (fieldL w)⟩

/-- l.rori (49_base_isa_supplement_b.md R255): `101110DDDDDAAAAA--------11-LLLLL`. -/
def rowRori : Row :=
  ⟨"l.rori", 0xB80000C0, 0xFC0000C0, 0x0000FF20, fun w => .rori (fieldD w) (fieldA w) (fieldL w)⟩

/-- l.exths (49_base_isa_supplement_b.md R256): `111000DDDDDAAAAA------0000--1100`. -/
def rowExths : Row :=
  ⟨"l.exths", 0xE000000C, 0xFC0003CF, 0x0000FC30, fun w => .exths (fieldD w) (fieldA w)⟩

/-- l.extbs (49_base_isa_supplement_b.md R257): `111000DDDDDAAAAA------0001--1100`. -/
def rowExtbs : Row :=
  ⟨"l.extbs", 0xE000004C, 0xFC0003CF, 0x0000FC30, fun w => .extbs (fieldD w) (fieldA w)⟩

/-- l.exthz (49_base_isa_supplement_b.md R258): `111000DDDDDAAAAA------0010--1100`. -/
def rowExthz : Row :=
  ⟨"l.exthz", 0xE000008C, 0xFC0003CF, 0x0000FC30, fun w => .exthz (fieldD w) (fieldA w)⟩

/-- l.extbz (49_base_isa_supplement_b.md R259): `111000DDDDDAAAAA------0011--1100`. -/
def rowExtbz : Row :=
  ⟨"l.extbz", 0xE00000CC, 0xFC0003CF, 0x0000FC30, fun w => .extbz (fieldD w) (fieldA w)⟩

/-- l.extws (49_base_isa_supplement_b.md R260): `111000DDDDDAAAAA------0000--1101`. -/
def rowExtws : Row :=
  ⟨"l.extws", 0xE000000D, 0xFC0003CF, 0x0000FC30, fun w => .extws (fieldD w) (fieldA w)⟩

/-- l.extwz (49_base_isa_supplement_b.md R261): `111000DDDDDAAAAA------0001--1101`. -/
def rowExtwz : Row :=
  ⟨"l.extwz", 0xE000004D, 0xFC0003CF, 0x0000FC30, fun w => .extwz (fieldD w) (fieldA w)⟩

/-- l.sfeq (49_base_isa_supplement_b.md R264): `11100100000AAAAABBBBB-----------`. -/
def rowSfeq : Row :=
  ⟨"l.sfeq", 0xE4000000, 0xFFE00000, 0x000007FF, fun w => .sfeq (fieldA w) (fieldB w)⟩

/-- l.sfne (49_base_isa_supplement_b.md R265): `11100100001AAAAABBBBB-----------`. -/
def rowSfne : Row :=
  ⟨"l.sfne", 0xE4200000, 0xFFE00000, 0x000007FF, fun w => .sfne (fieldA w) (fieldB w)⟩

/-- l.sfgtu (49_base_isa_supplement_b.md R266): `11100100010AAAAABBBBB-----------`. -/
def rowSfgtu : Row :=
  ⟨"l.sfgtu", 0xE4400000, 0xFFE00000, 0x000007FF, fun w => .sfgtu (fieldA w) (fieldB w)⟩

/-- l.sfgeu (49_base_isa_supplement_b.md R267): `11100100011AAAAABBBBB-----------`. -/
def rowSfgeu : Row :=
  ⟨"l.sfgeu", 0xE4600000, 0xFFE00000, 0x000007FF, fun w => .sfgeu (fieldA w) (fieldB w)⟩

/-- l.sfltu (49_base_isa_supplement_b.md R268): `11100100100AAAAABBBBB-----------`. -/
def rowSfltu : Row :=
  ⟨"l.sfltu", 0xE4800000, 0xFFE00000, 0x000007FF, fun w => .sfltu (fieldA w) (fieldB w)⟩

/-- l.sfleu (49_base_isa_supplement_b.md R269): `11100100101AAAAABBBBB-----------`. -/
def rowSfleu : Row :=
  ⟨"l.sfleu", 0xE4A00000, 0xFFE00000, 0x000007FF, fun w => .sfleu (fieldA w) (fieldB w)⟩

/-- l.sfgts (49_base_isa_supplement_b.md R270): `11100101010AAAAABBBBB-----------`. -/
def rowSfgts : Row :=
  ⟨"l.sfgts", 0xE5400000, 0xFFE00000, 0x000007FF, fun w => .sfgts (fieldA w) (fieldB w)⟩

/-- l.sfges (49_base_isa_supplement_b.md R271): `11100101011AAAAABBBBB-----------`. -/
def rowSfges : Row :=
  ⟨"l.sfges", 0xE5600000, 0xFFE00000, 0x000007FF, fun w => .sfges (fieldA w) (fieldB w)⟩

/-- l.sflts (49_base_isa_supplement_b.md R272): `11100101100AAAAABBBBB-----------`. -/
def rowSflts : Row :=
  ⟨"l.sflts", 0xE5800000, 0xFFE00000, 0x000007FF, fun w => .sflts (fieldA w) (fieldB w)⟩

/-- l.sfles (49_base_isa_supplement_b.md R273): `11100101101AAAAABBBBB-----------`. -/
def rowSfles : Row :=
  ⟨"l.sfles", 0xE5A00000, 0xFFE00000, 0x000007FF, fun w => .sfles (fieldA w) (fieldB w)⟩

/-- l.sfeqi (49_base_isa_supplement_b.md R274): `10111100000AAAAAIIIIIIIIIIIIIIII`. -/
def rowSfeqi : Row :=
  ⟨"l.sfeqi", 0xBC000000, 0xFFE00000, 0x00000000, fun w => .sfeqi (fieldA w) (fieldImm w)⟩

/-- l.sfnei (49_base_isa_supplement_b.md R275): `10111100001AAAAAIIIIIIIIIIIIIIII`. -/
def rowSfnei : Row :=
  ⟨"l.sfnei", 0xBC200000, 0xFFE00000, 0x00000000, fun w => .sfnei (fieldA w) (fieldImm w)⟩

/-- l.sfgtui (49_base_isa_supplement_b.md R276): `10111100010AAAAAIIIIIIIIIIIIIIII`. -/
def rowSfgtui : Row :=
  ⟨"l.sfgtui", 0xBC400000, 0xFFE00000, 0x00000000, fun w => .sfgtui (fieldA w) (fieldImm w)⟩

/-- l.sfgeui (49_base_isa_supplement_b.md R277): `10111100011AAAAAIIIIIIIIIIIIIIII`. -/
def rowSfgeui : Row :=
  ⟨"l.sfgeui", 0xBC600000, 0xFFE00000, 0x00000000, fun w => .sfgeui (fieldA w) (fieldImm w)⟩

/-- l.sfltui (49_base_isa_supplement_b.md R278): `10111100100AAAAAIIIIIIIIIIIIIIII`. -/
def rowSfltui : Row :=
  ⟨"l.sfltui", 0xBC800000, 0xFFE00000, 0x00000000, fun w => .sfltui (fieldA w) (fieldImm w)⟩

/-- l.sfleui (49_base_isa_supplement_b.md R279): `10111100101AAAAAIIIIIIIIIIIIIIII`. -/
def rowSfleui : Row :=
  ⟨"l.sfleui", 0xBCA00000, 0xFFE00000, 0x00000000, fun w => .sfleui (fieldA w) (fieldImm w)⟩

/-- l.sfgtsi (49_base_isa_supplement_b.md R280): `10111101010AAAAAIIIIIIIIIIIIIIII`. -/
def rowSfgtsi : Row :=
  ⟨"l.sfgtsi", 0xBD400000, 0xFFE00000, 0x00000000, fun w => .sfgtsi (fieldA w) (fieldImm w)⟩

/-- l.sfgesi (49_base_isa_supplement_b.md R281): `10111101011AAAAAIIIIIIIIIIIIIIII`. -/
def rowSfgesi : Row :=
  ⟨"l.sfgesi", 0xBD600000, 0xFFE00000, 0x00000000, fun w => .sfgesi (fieldA w) (fieldImm w)⟩

/-- l.sfltsi (49_base_isa_supplement_b.md R282): `10111101100AAAAAIIIIIIIIIIIIIIII`. -/
def rowSfltsi : Row :=
  ⟨"l.sfltsi", 0xBD800000, 0xFFE00000, 0x00000000, fun w => .sfltsi (fieldA w) (fieldImm w)⟩

/-- l.sflesi (49_base_isa_supplement_b.md R283): `10111101101AAAAAIIIIIIIIIIIIIIII`. -/
def rowSflesi : Row :=
  ⟨"l.sflesi", 0xBDA00000, 0xFFE00000, 0x00000000, fun w => .sflesi (fieldA w) (fieldImm w)⟩

/-- l.mac (49_base_isa_supplement_b.md R284): `110001-----AAAAABBBBB-------0001`. -/
def rowMac : Row :=
  ⟨"l.mac", 0xC4000001, 0xFC00000F, 0x03E007F0, fun w => .mac (fieldA w) (fieldB w)⟩

/-- l.msb (49_base_isa_supplement_b.md R285): `110001-----AAAAABBBBB-------0010`. -/
def rowMsb : Row :=
  ⟨"l.msb", 0xC4000002, 0xFC00000F, 0x03E007F0, fun w => .msb (fieldA w) (fieldB w)⟩

/-- Major opcode 0x38: bits 9:8 and 3:0, or 9:6 and 3:0, select (30_encoding.md R74, 49_base_isa_supplement_b.md R240). -/
def tableRRR : List Row :=
  [rowAdd, rowAddc, rowMul, rowDiv, rowDivu, rowMulu, rowFf1, rowFl1, rowSub, rowAnd, rowOr, rowXor, rowCmov, rowSll, rowSrl, rowSra,
   rowRor, rowExths, rowExtbs, rowExthz, rowExtbz, rowExtws, rowExtwz]

/-- Register, register, 16-bit immediate (30_encoding.md R71, 48_base_isa_supplement_a.md R200). -/
def tableRRI : List Row :=
  [rowAddi, rowAddic, rowXori, rowMuli, rowLwz, rowLws, rowLbz, rowLbs, rowLhz, rowLhs, rowMfspr, rowAndi, rowOri]

/-- Jumps and branches, l.maci and the floating point rows (30_encoding.md R71, R75; 48_base_isa_supplement_a.md R201 to R204). -/
def tableJump : List Row :=
  [rowMaci, rowJr, rowJalr, rowMaddS, rowMaddD, rowJ, rowJal, rowBnf, rowBf]

/-- No-operation, constants and the system rows (48_base_isa_supplement_a.md R205 to R214). -/
def tableSystem : List Row :=
  [rowNop, rowMovhi, rowMacrc, rowSys, rowTrap, rowMsync, rowPsync, rowCsync, rowRfe]

/-- Split immediates and the accumulator rows (48_base_isa_supplement_a.md R216, R225 to R227; 49_base_isa_supplement_b.md R284, R285). -/
def tableStore : List Row :=
  [rowMtspr, rowSw, rowSb, rowSh, rowMac, rowMsb]

/-- Shifts by an immediate (49_base_isa_supplement_b.md R252 to R255). -/
def tableShift : List Row :=
  [rowSlli, rowSrli, rowSrai, rowRori]

/-- Compares of two registers (49_base_isa_supplement_b.md R263). -/
def tableCompare : List Row :=
  [rowSfeq, rowSfne, rowSfgtu, rowSfgeu, rowSfltu, rowSfleu, rowSfgts, rowSfges, rowSflts, rowSfles]

/-- Compares with an immediate (49_base_isa_supplement_b.md R263). -/
def tableCompareImm : List Row :=
  [rowSfeqi, rowSfnei, rowSfgtui, rowSfgeui, rowSfltui, rowSfleui, rowSfgtsi, rowSfgesi, rowSfltsi, rowSflesi]

/-- spec/opcode_table.json: a word `w` selects a row when `w & mask = match` (30_encoding.md R73). -/
def table : List Row :=
  tableRRR ++ tableRRI ++ tableJump ++ tableSystem ++ tableStore ++ tableShift ++ tableCompare ++ tableCompareImm

/-! ## Decoding -/

/-- Major opcodes 0x1c to 0x1f and 0x3c to 0x3f: l.cust1 to l.cust8 (49_base_isa_supplement_b.md R290). -/
def isCustom (w : Word) : Bool := majorOpcode w &&& 0x1c#6 == 0x1c#6

/-- The instruction of a word. Reserved bits are tested before anything else about the row (30_encoding.md R77, R79). -/
def decodeWord (w : Word) : Except DecodeError Instr :=
  match table.find? (·.selects w) with
  | some r => if w &&& r.reserved = 0 then .ok (r.build w) else .error .reservedBitsSet
  | none => if isCustom w then .error .customInstruction else .error .noSuchInstruction

/-- Four bytes as a word, the lowest address first: big-endian (20_memory.md R51). -/
def wordOfBytes (b0 b1 b2 b3 : Byte) : Word := b0 ++ b1 ++ b2 ++ b3

/-- The instruction at the head of a byte string, and the bytes after it; an instruction is always four bytes (30_encoding.md R70). -/
def decodeBytes : List Byte → Except DecodeError (Instr × List Byte)
  | b0 :: b1 :: b2 :: b3 :: rest => (decodeWord (wordOfBytes b0 b1 b2 b3)).map (·, rest)
  | _ => .error .truncated

/-! ## Encoding -/

/-- The word of an instruction: its row's `match` with the operands in their fields and every reserved bit 0 (30_encoding.md R73, R77). -/
def encode : Instr → Word
  | .add d a b => 0xE0000000 ||| putD d ||| putA a ||| putB b
  | .addc d a b => 0xE0000001 ||| putD d ||| putA a ||| putB b
  | .mul d a b => 0xE0000306 ||| putD d ||| putA a ||| putB b
  | .div d a b => 0xE0000309 ||| putD d ||| putA a ||| putB b
  | .divu d a b => 0xE000030A ||| putD d ||| putA a ||| putB b
  | .mulu d a b => 0xE000030B ||| putD d ||| putA a ||| putB b
  | .ff1 d a => 0xE000000F ||| putD d ||| putA a
  | .fl1 d a => 0xE000010F ||| putD d ||| putA a
  | .addi d a i => 0x9C000000 ||| putD d ||| putA a ||| putImm i
  | .addic d a i => 0xA0000000 ||| putD d ||| putA a ||| putImm i
  | .xori d a k => 0xAC000000 ||| putD d ||| putA a ||| putImm k
  | .muli d a i => 0xB0000000 ||| putD d ||| putA a ||| putImm i
  | .maci a i => 0x4C000000 ||| putA a ||| putImm i
  | .jr b => 0x44000000 ||| putB b
  | .jalr b => 0x48000000 ||| putB b
  | .maddS d a b => 0xC8000007 ||| putD d ||| putA a ||| putB b
  | .maddD d a b => 0xC8000017 ||| putD d ||| putA a ||| putB b
  | .j n => 0x00000000 ||| putN n
  | .jal n => 0x04000000 ||| putN n
  | .bnf n => 0x0C000000 ||| putN n
  | .bf n => 0x10000000 ||| putN n
  | .nop k => 0x15000000 ||| putImm k
  | .movhi d k => 0x18000000 ||| putD d ||| putImm k
  | .macrc d => 0x18010000 ||| putD d
  | .sys k => 0x20000000 ||| putImm k
  | .trap k => 0x21000000 ||| putImm k
  | .msync => 0x22000000
  | .psync => 0x22800000
  | .csync => 0x23000000
  | .rfe => 0x24000000
  | .lwz d a i => 0x84000000 ||| putD d ||| putA a ||| putImm i
  | .lws d a i => 0x88000000 ||| putD d ||| putA a ||| putImm i
  | .lbz d a i => 0x8C000000 ||| putD d ||| putA a ||| putImm i
  | .lbs d a i => 0x90000000 ||| putD d ||| putA a ||| putImm i
  | .lhz d a i => 0x94000000 ||| putD d ||| putA a ||| putImm i
  | .lhs d a i => 0x98000000 ||| putD d ||| putA a ||| putImm i
  | .mfspr d a k => 0xB4000000 ||| putD d ||| putA a ||| putImm k
  | .mtspr a b k => 0xC0000000 ||| putA a ||| putB b ||| putSplit k
  | .sw a b i => 0xD4000000 ||| putA a ||| putB b ||| putSplit i
  | .sb a b i => 0xD8000000 ||| putA a ||| putB b ||| putSplit i
  | .sh a b i => 0xDC000000 ||| putA a ||| putB b ||| putSplit i
  | .sub d a b => 0xE0000002 ||| putD d ||| putA a ||| putB b
  | .and d a b => 0xE0000003 ||| putD d ||| putA a ||| putB b
  | .or d a b => 0xE0000004 ||| putD d ||| putA a ||| putB b
  | .xor d a b => 0xE0000005 ||| putD d ||| putA a ||| putB b
  | .cmov d a b => 0xE000000E ||| putD d ||| putA a ||| putB b
  | .andi d a k => 0xA4000000 ||| putD d ||| putA a ||| putImm k
  | .ori d a k => 0xA8000000 ||| putD d ||| putA a ||| putImm k
  | .sll d a b => 0xE0000008 ||| putD d ||| putA a ||| putB b
  | .srl d a b => 0xE0000048 ||| putD d ||| putA a ||| putB b
  | .sra d a b => 0xE0000088 ||| putD d ||| putA a ||| putB b
  | .ror d a b => 0xE00000C8 ||| putD d ||| putA a ||| putB b
  | .slli d a l => 0xB8000000 ||| putD d ||| putA a ||| putL l
  | .srli d a l => 0xB8000040 ||| putD d ||| putA a ||| putL l
  | .srai d a l => 0xB8000080 ||| putD d ||| putA a ||| putL l
  | .rori d a l => 0xB80000C0 ||| putD d ||| putA a ||| putL l
  | .exths d a => 0xE000000C ||| putD d ||| putA a
  | .extbs d a => 0xE000004C ||| putD d ||| putA a
  | .exthz d a => 0xE000008C ||| putD d ||| putA a
  | .extbz d a => 0xE00000CC ||| putD d ||| putA a
  | .extws d a => 0xE000000D ||| putD d ||| putA a
  | .extwz d a => 0xE000004D ||| putD d ||| putA a
  | .sfeq a b => 0xE4000000 ||| putA a ||| putB b
  | .sfne a b => 0xE4200000 ||| putA a ||| putB b
  | .sfgtu a b => 0xE4400000 ||| putA a ||| putB b
  | .sfgeu a b => 0xE4600000 ||| putA a ||| putB b
  | .sfltu a b => 0xE4800000 ||| putA a ||| putB b
  | .sfleu a b => 0xE4A00000 ||| putA a ||| putB b
  | .sfgts a b => 0xE5400000 ||| putA a ||| putB b
  | .sfges a b => 0xE5600000 ||| putA a ||| putB b
  | .sflts a b => 0xE5800000 ||| putA a ||| putB b
  | .sfles a b => 0xE5A00000 ||| putA a ||| putB b
  | .sfeqi a i => 0xBC000000 ||| putA a ||| putImm i
  | .sfnei a i => 0xBC200000 ||| putA a ||| putImm i
  | .sfgtui a i => 0xBC400000 ||| putA a ||| putImm i
  | .sfgeui a i => 0xBC600000 ||| putA a ||| putImm i
  | .sfltui a i => 0xBC800000 ||| putA a ||| putImm i
  | .sfleui a i => 0xBCA00000 ||| putA a ||| putImm i
  | .sfgtsi a i => 0xBD400000 ||| putA a ||| putImm i
  | .sfgesi a i => 0xBD600000 ||| putA a ||| putImm i
  | .sfltsi a i => 0xBD800000 ||| putA a ||| putImm i
  | .sflesi a i => 0xBDA00000 ||| putA a ||| putImm i
  | .mac a b => 0xC4000001 ||| putA a ||| putB b
  | .msb a b => 0xC4000002 ||| putA a ||| putB b

/-- The bytes of a word in the order memory holds them (20_memory.md R51). -/
def bytesOfWord (w : Word) : List Byte := [w.extractLsb' 24 8, w.extractLsb' 16 8, w.extractLsb' 8 8, w.extractLsb' 0 8]

/-- The bytes of an instruction. -/
def encodeBytes (i : Instr) : List Byte := bytesOfWord (encode i)

/-- The word numbered as the opcode table numbers it, with every bit from `nbits` on 0. -/
def tableWord (nbits w : Nat) : Word := BitVec.ofNat 32 (w % 2 ^ nbits)

/-- What the decoder reads from the instruction whose bits are `w`, laid out in memory order. -/
def decodeTableWord (nbits w : Nat) : Option Instr :=
  match decodeBytes (bytesOfWord (tableWord nbits w)) with
  | .ok (i, _) => some i
  | .error _ => none

end Sys2Proof
end

