-- ==== Sys2Proof/Config.lean ====
section
/-! DEFINITION. What an implementation or the platform fixes (00_scope.md section 4) and the free values. An `opaque` constant has no body
that Lean can see: a claim about it holds whatever its value is. Parameters with a value in 00_scope.md section 4 stand in `Config.build` with
that value; the OPEN ones are opaque there. -/

namespace Sys2Proof

/-- What a word that matches no row of the opcode table does (00_scope.md section 4, `UNDECODED_POLICY`; 30_encoding.md R79). -/
inductive UndecodedPolicy where
  /-- `refuse`, the value the spec uses. -/
  | refuse
  /-- `illegal`, the alternative: the word raises the Illegal Instruction exception. -/
  | illegal
  deriving DecidableEq, Repr

/-- What SR[CY] takes after l.mul and l.muli, the configuration function `MUL_CARRY` (44_orbis_multiply.md R130, 92_eei_decisions.md D4;
log 11). -/
inductive MulCarry where
  /-- The spec's default: whether the product of the operands, taken as unsigned, is at least 2^32. -/
  | unsignedProduct
  /-- Another function of the two operands, left open: `Config.otherMulCarry`. -/
  | other
  deriving DecidableEq, Repr

/-- The implementation parameters that instructions depend on, constant during a run. They are plain data so that the state can carry
them and a claim can be made for each value (logs 8 to 12). -/
structure Build where
  /-- `XORI_SIGN_EXTEND` (45_orbis_xori.md R140): OPEN. -/
  xoriSignExtend : Bool
  /-- `IMPLEMENTED(lf.madd.s)` (46_orfpx_orvdx.md R147): OPEN. -/
  implementsMaddS : Bool
  /-- `HAS_PIC` (10_state.md R33, R34). -/
  hasPic : Bool
  /-- `PIC_INTS`, how many interrupt lines are wired, at most 32 (10_state.md R34). -/
  picInts : Nat
  /-- `UNDECODED_POLICY`. -/
  undecoded : UndecodedPolicy
  /-- `VR`, SPR 0x0000 (48_base_isa_supplement_a.md R217): OPEN. -/
  vr : Word
  /-- `UPR`, SPR 0x0001, but for bit 9, which reads as `HAS_PIC` (10_state.md R33): OPEN. -/
  upr : Word
  /-- `CPUCFGR`, SPR 0x0002 (R217): OPEN. -/
  cpucfgr : Word
  /-- `MUL_CARRY` (44_orbis_multiply.md R130): has a default. -/
  mulCarry : MulCarry
  deriving DecidableEq, Repr

namespace Config

/-- The free values, `draw_32` of 00_scope.md section 5.1: the n-th one used in a run is `freeWord n`. No rule constrains any of them
(41_orbis_divide.md R110, 60_exceptions.md R305; log 7). -/
opaque freeWord : Nat → Word

/-- `FMADD32` (46_orfpx_orvdx.md R147), uninterpreted: the operands rA, rB, the old rD and the rounding mode FPCSR[RM] give the result and
the nine flag fields FPCSR[11:3] (log 9). -/
opaque fmadd32 : Word → Word → Word → BitVec 2 → Word × BitVec 9

/-- `MUL_CARRY` of a build that does not have the default, uninterpreted: SR[CY] after l.mul and l.muli as a function of the two operands
(44_orbis_multiply.md R130; log 11). -/
opaque otherMulCarry : Word → Word → Bool

/-- `XORI_SIGN_EXTEND`, OPEN (92_eei_decisions.md D7; log 8). -/
opaque xoriSignExtend : Bool

/-- `IMPLEMENTED(lf.madd.s)`, OPEN (92_eei_decisions.md D27; log 9). -/
opaque implementsMaddS : Bool

/-- `VR`, OPEN (92_eei_decisions.md D36; log 10). -/
opaque vr : Word

/-- `UPR` but for its PICP field, OPEN (92_eei_decisions.md D36; log 10). -/
opaque upr : Word

/-- `CPUCFGR`, OPEN (92_eei_decisions.md D36; log 10). -/
opaque cpucfgr : Word

/-- The build a run starts with: the values of 00_scope.md section 4, the OPEN parameters left opaque (log 12). -/
def build : Build where
  xoriSignExtend := Config.xoriSignExtend
  implementsMaddS := Config.implementsMaddS
  hasPic := true
  picInts := 32
  undecoded := .refuse
  vr := Config.vr
  upr := Config.upr
  cpucfgr := Config.cpucfgr
  mulCarry := .unsignedProduct

/-- `RESET_PC` (00_scope.md section 4, 10_state.md R39). -/
def resetPc : Word := 0x00000100

/-- `LR`, the link register, is r9 (10_state.md R21). -/
def linkReg : Reg := 9

end Config

end Sys2Proof
end

