-- ==== Sys2Proof/Machine/State.lean ====
section
/-! DEFINITION. The state of the machine as plain data (10_state.md), the reasons a step can stop, and the state after reset. -/

namespace Sys2Proof.Machine

/-- What a region of the platform's memory map holds (20_memory.md R55, R56). -/
inductive RegionKind where
  /-- RAM or ROM: reads have no side effect (20_memory.md R55). -/
  | memory
  /-- A peripheral's window: a store goes there, a load takes what the peripheral answers, a free value (20_memory.md R55, 60_exceptions.md
  R324 step 3; log 5). -/
  | device
  deriving DecidableEq, Repr

/-- A region of `MEM_MAP`: the `size` addresses from `base` on (00_scope.md section 4). -/
structure Region where
  base : Nat
  size : Nat
  kind : RegionKind
  deriving DecidableEq, Repr

/-- The environment's inputs of one step: the 32 line levels (10_state.md R37) and `take_irq` (60_exceptions.md R323). -/
structure EnvInput where
  irq : Word
  takeIrq : Bool
  deriving DecidableEq, Repr

/-- Memory: (address, byte) pairs, addresses strictly rising, no entry equal to what an unlisted address reads as. -/
abbrev Memory := List Host.Cell

/-- The machine (10_state.md; INVENTORY.md names the rule and the reset value of every field). -/
structure State where
  /-- r0 to r31 (R20). -/
  regs : Vector Word 32
  /-- The address of the instruction to execute (R23). -/
  pc : Word
  /-- The target a jump has set while its delay slot is to execute (R24). -/
  delay : Option Word
  /-- SR (R27, R28). Bit 15 is hard-wired: `State.readSR` reads it as 1. -/
  sr : Word
  /-- EPCR0 (R29). -/
  epcr0 : Word
  /-- EEAR0 (R29). -/
  eear0 : Word
  /-- ESR0 (R29). -/
  esr0 : Word
  /-- Bits 63:32 of the accumulator (R30). -/
  machi : Word
  /-- Bits 31:0 of the accumulator (R30). -/
  maclo : Word
  /-- FPCSR[11:0]; bits 31:12 read as zero (R31). -/
  fpcsr : BitVec 12
  /-- PICMR[31:2], the field IUM; PICMR[1:0] is hard-wired (R34). -/
  ium : BitVec 30
  /-- PICSR (R35). -/
  picsr : Word
  /-- Memory (20_memory.md R50). -/
  mem : Memory
  /-- The addresses stored to since launch (20_memory.md R61), strictly rising. -/
  stored : List Nat
  /-- `MEM_MAP` (00_scope.md section 4), constant during a run. -/
  memMap : List Region
  /-- The line levels of the current step (R37). -/
  irq : Word
  /-- The environment's inputs of the steps to come (R37, 60_exceptions.md R323). -/
  inputs : List EnvInput
  /-- The implementation parameters (00_scope.md section 4), constant during a run. -/
  build : Build
  /-- The model's own: how many free values have been used (log 7). -/
  draws : Nat
  deriving DecidableEq, Repr

/-- A stop that is not the spec's `refuse`. The spec has none: every exception it models is taken, a next state (60_exceptions.md R305), and
every other stop is a `refuse(reason)`, so there is no constructor (log 39). -/
inductive Fault where
  deriving DecidableEq, Repr

/-- `refuse(reason)`: the spec gives the case no meaning (00_scope.md section 5.1). Every one of them is safe: the machine stops where
the hardware does something the spec does not say. -/
inductive Refusal where
  /-- The instruction has no meaning in this model yet. Raised by `exec`'s arm alone. Safe. -/
  | notModelled (mnemonic : String)
  /-- A reserved bit of a matching word is 1 (30_encoding.md R77). Raised by the fetch. Safe. -/
  | reservedBitsSet
  /-- The word matches no row (30_encoding.md R79). Raised by the fetch. Safe. -/
  | noSuchInstruction
  /-- The word is l.cust1 to l.cust8 (49_base_isa_supplement_b.md R290). Raised by the fetch. Safe. -/
  | customInstruction
  /-- A byte of the word was stored to since launch (20_memory.md R61). Raised by the fetch. Safe. -/
  | fetchOfModifiedCode
  /-- A fetch with a byte outside `MEM_MAP` (20_memory.md R52). Raised by the fetch. Safe: the hardware raises a bus error, which the spec does
  not model. -/
  | fetchOutsideMemoryMap
  /-- A load or store with a byte outside `MEM_MAP` (48_base_isa_supplement_a.md R218). Raised by the loads and stores. Safe, for the same
  reason. -/
  | accessOutsideMemoryMap
  /-- A fetch with a byte in a device window: the spec does not say what a peripheral gives a fetch (20_memory.md R55; log 5). Raised by the
  fetch. Safe. -/
  | fetchFromDeviceWindow
  /-- An instruction would write a non-zero value, or a division an open one, to r0 (10_state.md R22, 41_orbis_divide.md R112). Raised by every
  instruction with a D field. Safe. -/
  | nonZeroWriteToR0
  /-- A jump or branch in a delay slot (43_orbis_jump_register.md R125). Raised by the jumps and branches. Safe. -/
  | jumpInDelaySlot
  /-- l.rfe in a delay slot (10_state.md R25). Raised by l.rfe. Safe. -/
  | rfeInDelaySlot
  /-- System Call or Floating Point in a delay slot (60_exceptions.md R307). Raised by l.sys and lf.madd.s. Safe. -/
  | nextInstructionExceptionInDelaySlot
  /-- A write of SR would set a field that is not modelled or a reserved bit (10_state.md R28). Raised by l.mtspr and l.rfe. Safe. -/
  | srFieldNotModelled
  /-- An SPR number outside the modelled set (10_state.md R36). Raised by l.mfspr and l.mtspr. Safe. -/
  | sprNotModelled
  /-- The SPR is NPC or PPC (10_state.md R26). Raised by l.mfspr and l.mtspr. Safe. -/
  | npcPpcNotModelled
  /-- A write of VR, UPR or CPUCFGR (48_base_isa_supplement_a.md R217). Raised by l.mtspr. Safe. -/
  | sprReadOnly
  /-- l.mfspr or l.mtspr with SR[SM] = 0 (60_exceptions.md R331). Safe. -/
  | sprAccessInUserMode
  /-- l.rfe with SR[SM] = 0 (60_exceptions.md R331). Safe. -/
  | privilegedInUserMode
  /-- l.rfe with EPCR0 not word aligned (48_base_isa_supplement_a.md R214). Safe. -/
  | misalignedEpcr0
  /-- l.mtspr writes 1 to a PICSR bit that is 0 (60_exceptions.md R322). Safe. -/
  | setOfClearPicsrBit
  /-- SR[IEE] = 1 and every latched line is masked (60_exceptions.md R323). Raised by the interrupt test. Safe. -/
  | latchedInterruptMasked
  /-- An unsigned compare with an immediate whose bit 15 is 1 (49_base_isa_supplement_b.md R263). Raised by l.sfgtui, l.sfgeui, l.sfltui,
  l.sfleui. Safe. -/
  | unsignedImmediateBit15
  deriving DecidableEq, Repr

/-- The outcome of an operation or of a step. -/
abbrev Result := Host.Outcome State Fault Refusal

/-- The state after reset (10_state.md R39, 70_reset_and_hazards.md R350). The spec gives no value to the general registers, EPCR0,
EEAR0, ESR0, MACHI and MACLO; they are 0 here (DESIGN CHOICE, unsafe, log 2). The platform supplies the memory contents (nothing
listed, log 3), `MEM_MAP` (one region over the whole space, DESIGN CHOICE, log 4) and the line levels (deasserted, log 6). -/
def State.reset : State where
  regs := Vector.replicate 32 0
  pc := Config.resetPc
  delay := none
  sr := 0x00008001
  epcr0 := 0
  eear0 := 0
  esr0 := 0
  machi := 0
  maclo := 0
  fpcsr := 0
  ium := 0
  picsr := 0
  mem := []
  stored := []
  memMap := [⟨0, 4294967296, .memory⟩]
  irq := 0
  inputs := []
  build := Config.build
  draws := 0

end Sys2Proof.Machine
end

