-- ==== Sys2Proof/Machine/Operands.lean ====
section
/-! DEFINITION. The operand forms: immediates, branch offsets and shift amounts (30_encoding.md R72, 48_base_isa_supplement_a.md R200). -/

namespace Sys2Proof.Machine

/-- A field I as an operand: sign extended (30_encoding.md R72). -/
def signedImm (i : Half) : Word := i.signExtend 32

/-- A field K as an operand: zero extended (30_encoding.md R72). -/
def unsignedImm (k : Half) : Word := k.setWidth 32

/-- The operand K of l.xori: sign extended when bit 15 is 1 and `XORI_SIGN_EXTEND` holds, else zero extended; where bit 15 is 0 the two
agree (45_orbis_xori.md R140). -/
def xorImm (b : Build) (k : Half) : Word := if k.msb && b.xoriSignExtend then signedImm k else unsignedImm k

/-- The byte offset of a field N, `sext_32(N ++ 0b00)` (48_base_isa_supplement_a.md R200). -/
def branchOffset (n : BitVec 26) : Word := (n ++ 0#2).signExtend 32

/-- The shift amount of a register operand, its bits 4:0 (49_base_isa_supplement_b.md R247). -/
def regShiftAmount (b : Word) : Nat := (b.extractLsb' 0 5).toNat

/-- The shift amount of a field L, its bits 4:0 (49_base_isa_supplement_b.md R247). -/
def immShiftAmount (l : BitVec 6) : Nat := (l.extractLsb' 0 5).toNat

/-- The SPR number of l.mfspr and l.mtspr: the OR, not the sum, of rA and K, low 16 bits (48_base_isa_supplement_a.md R215, R216). -/
def sprNumber (a : Word) (k : Half) : BitVec 16 := (a ||| unsignedImm k).extractLsb' 0 16

/-- The address is a multiple of `n` bytes (20_memory.md R54). -/
def alignedTo (n : Nat) (ea : Word) : Bool := ea.toNat % n == 0

end Sys2Proof.Machine
end

