-- ==== Sys2Proof/Machine/Flags.lean ====
section
/-! DEFINITION. The values the arithmetic instructions compute: exact integers first, then the narrowed result, the carry and the overflow
(40_orbis_add.md R100, 44_orbis_multiply.md R130, 41_orbis_divide.md R110, 49_base_isa_supplement_b.md R241). -/

namespace Sys2Proof.Machine

/-- The exact integer is outside -2^31 .. 2^31 - 1. -/
def outsideSigned (n : Int) : Bool := decide (n < -2147483648) || decide (2147483647 < n)

/-- The exact natural number does not fit 32 bits. -/
def outsideUnsigned (n : Nat) : Bool := decide (4294967296 ≤ n)

/-! ## Addition (R100), with the carry-in `c` -/

/-- `sum_u`. -/
def sumU (x y : Word) (c : Bool) : Nat := x.toNat + y.toNat + c.toNat
/-- `sum_s`. -/
def sumS (x y : Word) (c : Bool) : Int := x.toInt + y.toInt + (c.toNat : Int)
/-- `result`, the sum modulo 2^32. -/
def addResult (x y : Word) (c : Bool) : Word := BitVec.ofNat 32 (sumU x y c)
/-- `carry` out of bit 31. -/
def addCarry (x y : Word) (c : Bool) : Bool := outsideUnsigned (sumU x y c)
/-- `overflow` of the signed sum. -/
def addOverflow (x y : Word) (c : Bool) : Bool := outsideSigned (sumS x y c)

/-! ## Subtraction (R241) -/

/-- The difference modulo 2^32. -/
def subResult (x y : Word) : Word := BitVec.ofInt 32 ((x.toNat : Int) - (y.toNat : Int))
/-- The borrow (R241, 92_eei_decisions.md D37; log 26). -/
def subCarry (x y : Word) : Bool := decide (x.toNat < y.toNat)
/-- Overflow of the signed difference. -/
def subOverflow (x y : Word) : Bool := outsideSigned (x.toInt - y.toInt)

/-! ## Multiplication (R130) -/

/-- `trunc_32(p_s)`, the truncated signed product. -/
def mulResult (x y : Word) : Word := BitVec.ofInt 32 (x.toInt * y.toInt)
/-- `overflow` of the signed product. -/
def mulOverflow (x y : Word) : Bool := outsideSigned (x.toInt * y.toInt)
/-- `MUL_CARRY`, the carry of l.mul and l.muli in a build: by the spec's default the unsigned product does not fit (R130, D4; log 11). -/
def mulCarry (b : Build) (x y : Word) : Bool :=
  match b.mulCarry with
  | .unsignedProduct => outsideUnsigned (x.toNat * y.toNat)
  | .other => Config.otherMulCarry x y
/-- `trunc_32(p_u)`, the truncated unsigned product. -/
def muluResult (x y : Word) : Word := BitVec.ofNat 32 (x.toNat * y.toNat)
/-- `carry` of the unsigned product. -/
def muluCarry (x y : Word) : Bool := outsideUnsigned (x.toNat * y.toNat)

/-! ## Division (R110), where there is a quotient -/

/-- The signed quotient, rounded toward zero (log 27). -/
def divResult (x y : Word) : Word := BitVec.ofInt 32 (x.toInt.tdiv y.toInt)
/-- The unsigned quotient. -/
def divuResult (x y : Word) : Word := BitVec.ofNat 32 (x.toNat / y.toNat)
/-- The quotient 2^31 of -2^31 / -1 is not representable (R110 case (b)). -/
def divUnrepresentable (x y : Word) : Bool := x == 0x80000000#32 && y == 0xFFFFFFFF#32

/-! ## Bit search (42_orbis_find_bit.md R115, R116) -/

/-- One more than the least `i` with `a[i] = 1`, 0 when there is none (R115). -/
def findFirstOne (a : Word) : Word :=
  match (List.range 32).find? (a.getLsbD ·) with
  | some i => BitVec.ofNat 32 (i + 1)
  | none => 0

/-- One more than the greatest `i` with `a[i] = 1`, 0 when there is none (R116). -/
def findLastOne (a : Word) : Word :=
  match (List.range 32).reverse.find? (a.getLsbD ·) with
  | some i => BitVec.ofNat 32 (i + 1)
  | none => 0

/-! ## Shifts (49_base_isa_supplement_b.md R248 to R251), by `s` places, 0 to 31 -/

/-- Zeros enter at bit 0 (R248). -/
def shiftLeft (x : Word) (s : Nat) : Word := x <<< s
/-- Zeros enter at bit 31 (R249). -/
def shiftRightLogical (x : Word) (s : Nat) : Word := x >>> s
/-- Copies of bit 31 enter at bit 31 (R250). -/
def shiftRightArith (x : Word) (s : Nat) : Word := x.sshiftRight s
/-- `x[s-1:0] ++ x[31:s]` (R251). -/
def rotateRight (x : Word) (s : Nat) : Word := x >>> s ||| x <<< (32 - s)

/-! ## Extension (49_base_isa_supplement_b.md R256 to R259) -/

/-- The low half word, sign extended (R256). -/
def extendHalfSigned (x : Word) : Word := (x.extractLsb' 0 16).signExtend 32
/-- The low byte, sign extended (R257). -/
def extendByteSigned (x : Word) : Word := (x.extractLsb' 0 8).signExtend 32
/-- The low half word, zero extended (R258). -/
def extendHalfZero (x : Word) : Word := (x.extractLsb' 0 16).setWidth 32
/-- The low byte, zero extended (R259). -/
def extendByteZero (x : Word) : Word := (x.extractLsb' 0 8).setWidth 32

/-! ## Multiply-accumulate (44_orbis_multiply.md R131, 49_base_isa_supplement_b.md R284, R285) -/

/-- The product, truncated to 32 bits, then sign extended to 64 (R131). -/
def macTerm (x y : Word) : BitVec 64 := (mulResult x y).signExtend 64

end Sys2Proof.Machine
end

