-- ==== Sys2Proof/Machine/Ops.lean ====
section
/-! DEFINITION. The named operations over registers, SR and memory, taking an exception and returning from one. Every read and write of
the state's pieces goes through these. -/

namespace Sys2Proof.Machine

/-! ## Memory (20_memory.md R50, R51) -/

/-- What an unlisted address reads as: the platform's contents where the launch lists none (DESIGN CHOICE, unsafe, log 3). -/
def Memory.unlisted : Byte := 0x00

/-- The byte at an address. -/
def Memory.read : Memory → Nat → Byte
  | [], _ => Memory.unlisted
  | (k, v) :: rest, a => if k = a then v else Memory.read rest a

/-- Write a byte, keeping the canonical form: the value of an unlisted address is not listed. -/
def Memory.write : Memory → Nat → Byte → Memory
  | [], a, v => if v = Memory.unlisted then [] else [(a, v)]
  | (k, x) :: rest, a, v =>
    if a < k then (if v = Memory.unlisted then (k, x) :: rest else (a, v) :: (k, x) :: rest)
    else if a = k then (if v = Memory.unlisted then rest else (a, v) :: rest)
    else (k, x) :: Memory.write rest a v

/-- Addresses strictly rising from `lo` on, all below 2^32, no entry equal to what an unlisted address reads as. -/
def Memory.wfFrom : Nat → Memory → Bool
  | _, [] => true
  | lo, (k, v) :: rest => decide (lo ≤ k) && decide (k < 4294967296) && decide (v ≠ Memory.unlisted) && Memory.wfFrom (k + 1) rest

/-- The canonical form of memory. -/
def Memory.wf (m : Memory) : Bool := Memory.wfFrom 0 m

/-- Add an address to a strictly rising list of addresses. -/
def addAddress : List Nat → Nat → List Nat
  | [], a => [a]
  | k :: rest, a => if a < k then a :: k :: rest else if a = k then k :: rest else k :: addAddress rest a

/-- The list rises strictly from `lo` on. -/
def risingFrom : Nat → List Nat → Bool
  | _, [] => true
  | lo, k :: rest => decide (lo ≤ k) && risingFrom (k + 1) rest

/-- `M[a]`, the byte at an address (20_memory.md R51). -/
def State.byteAt (s : State) (a : Word) : Byte := Memory.read s.mem a.toNat

/-- `M[a] <- v`, remembering that the program has stored there (20_memory.md R51, R61). -/
def State.setByte (s : State) (a : Word) (v : Byte) : State :=
  { s with mem := Memory.write s.mem a.toNat v, stored := addAddress s.stored a.toNat }

/-- `MemRead(a, 2)` where the bytes are `m`: big-endian (20_memory.md R51; log 13). -/
def memRead2 (m : Word → Byte) (a : Word) : BitVec 16 := m a ++ m (a + 1)
/-- `MemRead(a, 4)` where the bytes are `m` (20_memory.md R51). -/
def memRead4 (m : Word → Byte) (a : Word) : Word := wordOfBytes (m a) (m (a + 1)) (m (a + 2)) (m (a + 3))

/-- `MemRead(a, 2)` (20_memory.md R51). -/
def State.load2 (s : State) (a : Word) : BitVec 16 := memRead2 s.byteAt a
/-- `MemRead(a, 4)` (20_memory.md R51). -/
def State.load4 (s : State) (a : Word) : Word := memRead4 s.byteAt a

/-- `MemWrite(a, 1, v)` (20_memory.md R51). -/
def State.store1 (s : State) (a : Word) (v : Byte) : State := s.setByte a v
/-- `MemWrite(a, 2, v)` (20_memory.md R51). -/
def State.store2 (s : State) (a : Word) (v : BitVec 16) : State :=
  (s.setByte a (v.extractLsb' 8 8)).setByte (a + 1) (v.extractLsb' 0 8)
/-- `MemWrite(a, 4, v)` (20_memory.md R51). -/
def State.store4 (s : State) (a : Word) (v : Word) : State :=
  (((s.setByte a (v.extractLsb' 24 8)).setByte (a + 1) (v.extractLsb' 16 8)).setByte (a + 2) (v.extractLsb' 8 8)).setByte (a + 3)
    (v.extractLsb' 0 8)

/-! ## The memory map (00_scope.md section 4, 20_memory.md R52, R55) -/

/-- The region holds the address. -/
def Region.holds (r : Region) (a : Nat) : Bool := decide (r.base ≤ a) && decide (a < r.base + r.size)

/-- What the memory map has at an address; the first region that holds it counts. -/
def State.kindAt (s : State) (a : Word) : Option RegionKind := (s.memMap.find? (·.holds a.toNat)).map (·.kind)

/-- The addresses `a .. a+n-1`, modulo 2^32. -/
def span (a : Word) (n : Nat) : List Word := (List.range n).map fun i => a + BitVec.ofNat 32 i

/-- Every one of the `n` bytes at `a` is memory. -/
def State.isMemory (s : State) (a : Word) (n : Nat) : Bool := (span a n).all fun x => s.kindAt x == some .memory

/-- Every one of the `n` bytes at `a` is in the memory map. -/
def State.isMapped (s : State) (a : Word) (n : Nat) : Bool := (span a n).all fun x => (s.kindAt x).isSome

/-! ## General registers (10_state.md R20, R22) -/

/-- `x[i]`. -/
def State.reg (s : State) (r : Reg) : Word := s.regs[r.toNat]'r.isLt

/-- The register file with one register replaced. -/
def State.setReg (s : State) (r : Reg) (v : Word) : State := { s with regs := s.regs.set r.toNat v r.isLt }

/-- `x[d] <- v`, then `k`. A non-zero write to r0 is refused; a write of zero to it is an ordinary write (R22; log 21). -/
def writeReg (d : Reg) (v : Word) (s : State) (k : State → Result) : Result :=
  if d = 0 ∧ v ≠ 0 then .refused .nonZeroWriteToR0 else k (s.setReg d v)

/-- `draw_32`: a free value, and the state that has used it (00_scope.md section 5.1; log 7). -/
def State.draw (s : State) : Word × State := (Config.freeWord s.draws, { s with draws := s.draws + 1 })

/-- `x[d] <- draw_32`, then `k`. Into r0 it is refused (41_orbis_divide.md R112; log 21). -/
def writeRegFree (d : Reg) (s : State) (k : State → Result) : Result :=
  if d = 0 then .refused .nonZeroWriteToR0 else k (s.draw.2.setReg d s.draw.1)

/-! ## The supervision register (10_state.md R27, R28) -/

/-- A word with bit `i` set to `b`. -/
def setBit (w : Word) (i : Nat) (b : Bool) : Word := if b then w ||| 1#32 <<< i else w &&& ~~~(1#32 <<< i)

/-- Bit positions of the fields of SR (R28). -/
def SR.SM : Nat := 0
def SR.TEE : Nat := 1
def SR.IEE : Nat := 2
def SR.DME : Nat := 5
def SR.IME : Nat := 6
def SR.F : Nat := 9
def SR.CY : Nat := 10
def SR.OV : Nat := 11
def SR.OVE : Nat := 12
def SR.DSX : Nat := 13
def SR.EPH : Nat := 14
def SR.FO : Nat := 15

/-- SR as it reads: FO is hard-wired to 1 (R28). -/
def State.readSR (s : State) : Word := setBit s.sr SR.FO true

/-- `SR[F]` for a field of one bit. -/
def State.srBit (s : State) (i : Nat) : Bool := s.readSR.getLsbD i

/-- `SR[F] <- b`. -/
def State.setSrBit (s : State) (i : Nat) (b : Bool) : State := { s with sr := setBit s.sr i b }

/-- Supervisor mode, SR[SM] = 1 (60_exceptions.md R330). -/
def State.supervisor (s : State) : Bool := s.srBit SR.SM

/-- `SR[CY] <- cy; SR[OV] <- ov`. -/
def State.setCyOv (s : State) (cy ov : Bool) : State := (s.setSrBit SR.CY cy).setSrBit SR.OV ov

/-- The bits of SR a program cannot set: TEE, DCE, ICE, DME, IME, LEE, CE, EPH, SUMRA, the reserved bits and CID (R28; log 14). -/
def srNotModelled : Word := 0xFFFF41FA

/-- What a write of `v` to SR stores: the modelled fields take the bits of `v` and FO stays 1; nothing where `v` sets a field that is not
modelled (48_base_isa_supplement_a.md R217). -/
def srWritten (v : Word) : Option Word := if v &&& srNotModelled = 0 then some (setBit v SR.FO true) else none

/-! ## The instruction cycle's end (10_state.md R25 step 7) -/

/-- The instruction at `pc` is in a delay slot (R25 step 5). -/
def State.inSlot (s : State) : Bool := s.delay.isSome

/-- Neither an exception nor a jump: to the pending target when in a slot, else to `pc + 4` (R23, R25). -/
def State.advance (s : State) : State :=
  match s.delay with
  | some t => { s with pc := t, delay := none }
  | none => { s with pc := s.pc + 4 }

/-- `delay <- t`: the instruction at `pc + 4` executes next, then the one at `t` (R24, R25). -/
def State.jump (s : State) (t : Word) : State := { s with pc := s.pc + 4, delay := some t }

/-- A jump or branch runs `k` unless it is in a delay slot, where it is refused before anything else (43_orbis_jump_register.md R123 (d),
R125; 60_exceptions.md R304). -/
def outsideSlot (s : State) (k : Result) : Result := if s.inSlot then .refused .jumpInDelaySlot else k

/-! ## Taking an exception (60_exceptions.md R302 to R307) -/

/-- The exceptions this spec models (60_exceptions.md R302). -/
inductive Exc where
  /-- Alignment, with the misaligned address: l.jr, l.jalr, a load or a store. -/
  | alignment (ea : Word)
  /-- Illegal Instruction: l.jalr r9, lf.madd.d, lf.madd.s where it is not implemented. -/
  | illegal
  /-- External Interrupt: the PIC. -/
  | interrupt
  /-- Range: overflow, or a zero divisor, with SR[OVE] = 1. -/
  | range
  /-- System Call: l.sys. -/
  | syscall
  /-- Floating Point: lf.madd.s. -/
  | floatingPoint
  /-- Trap: l.trap. -/
  | trap
  deriving DecidableEq, Repr

/-- The vector offset (R302, R303). -/
def Exc.offset : Exc → Word
  | .alignment _ => 0x600
  | .illegal => 0x700
  | .interrupt => 0x800
  | .range => 0xB00
  | .syscall => 0xC00
  | .floatingPoint => 0xD00
  | .trap => 0xE00

/-- The exceptions whose EPCR0 is the address of the next instruction (R306). -/
def Exc.savesNext : Exc → Bool
  | .syscall | .floatingPoint => true
  | .alignment _ | .illegal | .interrupt | .range | .trap => false

/-- The address EEAR0 records, where the exception has one (R306). -/
def Exc.address : Exc → Option Word
  | .alignment ea => some ea
  | .illegal | .interrupt | .range | .syscall | .floatingPoint | .trap => none

/-- `VECTOR_BASE`: 0, or 0xF0000000 when SR[EPH] = 1 (R303; no run sets EPH, log 15). -/
def vectorBase (sr : Word) : Word := if sr.getLsbD SR.EPH then 0xF0000000 else 0x00000000

/-- EPCR0: the instruction itself, or the jump before it in a delay slot; for System Call and Floating Point the next instruction
(R306, R307). -/
def savedPc (e : Exc) (pc : Word) (inSlot : Bool) : Word :=
  if e.savesNext then pc + 4 else if inSlot then pc - 4 else pc

/-- The SR a handler starts with: SM set, IEE, TEE, DME, IME and OVE clear, the rest kept (R305; log 16). -/
def handlerSR (sr : Word) : Word :=
  setBit (setBit (setBit (setBit (setBit (setBit sr SR.SM true) SR.IEE false) SR.TEE false) SR.DME false) SR.IME false) SR.OVE false

/-- `EEAR0 <- info`, or a free value for an exception without an address (R305; log 7). -/
def State.recordAddress (s : State) (info : Option Word) : State :=
  match info with
  | some ea => { s with eear0 := ea }
  | none => { s.draw.2 with eear0 := s.draw.1 }

/-- Trap entry (R305): save the pc, the address and the SR, with SR[DSX] written first; then the handler's SR, the vector, no pending
target. General registers and memory keep their values. -/
def State.enter (s : State) (e : Exc) : State :=
  let sr := setBit s.readSR SR.DSX s.inSlot
  { s.recordAddress e.address with
    epcr0 := savedPc e s.pc s.inSlot
    esr0 := sr
    sr := handlerSR sr
    pc := vectorBase sr + e.offset
    delay := none }

/-- `raise E(info)`. In a delay slot an exception whose EPCR0 is the next instruction is refused (R307). -/
def raise (e : Exc) (s : State) : Result :=
  if e.savesNext && s.inSlot then .refused .nextInstructionExceptionInDelaySlot else .next (s.enter e)

/-- Return from exception (48_base_isa_supplement_a.md R214, 60_exceptions.md R309): `SR <- ESR0; pc <- EPCR0`, no delay slot. Refused in
user mode, with a misaligned EPCR0, with an ESR0 that would set a field that is not modelled, and in a delay slot (log 19). -/
def returnFromException (s : State) : Result :=
  if !s.supervisor then .refused .privilegedInUserMode
  else if !alignedTo 4 s.epcr0 then .refused .misalignedEpcr0
  else match srWritten s.esr0 with
    | none => .refused .srFieldNotModelled
    | some sr => if s.inSlot then .refused .rfeInDelaySlot else .next { s with sr := sr, pc := s.epcr0, delay := none }

/-! ## Shared ends of instructions -/

/-- Write SR[CY] and SR[OV]; then raise Range if `range` holds and SR[OVE] = 1, else go on (40_orbis_add.md R101, 41_orbis_divide.md R111). -/
def finishArith (cy ov range : Bool) (s : State) : Result :=
  let t := s.setCyOv cy ov
  if range && t.srBit SR.OVE then raise .range t else .next t.advance

/-- `x[d] <- v` and go on; SR is not touched. -/
def finishReg (d : Reg) (v : Word) (s : State) : Result := writeReg d v s fun t => .next t.advance

/-- `SR[F] <- b` and go on (49_base_isa_supplement_b.md R263). -/
def finishFlag (b : Bool) (s : State) : Result := .next (s.setSrBit SR.F b).advance

/-! ## Loads and stores (48_base_isa_supplement_a.md R218) -/

/-- The effective address: base plus sign-extended displacement, modulo 2^32. -/
def State.effective (s : State) (a : Reg) (i : Half) : Word := s.reg a + signedImm i

/-- Run `k` where an access of `n` bytes at `ea` is aligned and in the memory map: alignment first, then the map (R218). -/
def withAccess (n : Nat) (ea : Word) (s : State) (k : Result) : Result :=
  if !alignedTo n ea then raise (.alignment ea) s
  else if s.isMapped ea n then k
  else .refused .accessOutsideMemoryMap

/-- The byte a load at `ea` gets from address `a`: memory's, and in a device window the peripheral's, which is byte `a - ea` of the free value
`answer` (20_memory.md R55; log 5). -/
def State.byteRead (s : State) (ea answer a : Word) : Byte :=
  if s.kindAt a = some .device then answer.extractLsb' (8 * (a - ea).toNat) 8 else s.byteAt a

/-- A load of `n` bytes at `ea` into rD; `value` is what it makes of the bytes, in memory or, with a free value for the peripheral's, in a
device window (R218; log 5). A load of a value that is not zero into r0 is refused (R218). -/
def loadInto (n : Nat) (d : Reg) (ea : Word) (value : (Word → Byte) → Word) (s : State) : Result :=
  withAccess n ea s <|
    if s.isMemory ea n then finishReg d (value s.byteAt) s
    else finishReg d (value (s.byteRead ea s.draw.1)) s.draw.2

end Sys2Proof.Machine
end

