-- ==== Sys2Proof/Machine/Arith.lean ====
section
/-! DEFINITION. Addition and subtraction (40_orbis_add.md, 49_base_isa_supplement_b.md R241), multiplication (44_orbis_multiply.md), division
(41_orbis_divide.md). Operands are read before anything is written; rD and the flags are written before Range is raised (R101). -/

namespace Sys2Proof.Machine

/-- The sum of R100 into rD, with its flags and Range on overflow (R101). -/
def addInto (d : Reg) (x y : Word) (c : Bool) (s : State) : Result :=
  writeReg d (addResult x y c) s (finishArith (addCarry x y c) (addOverflow x y c) (addOverflow x y c))

/-- `l.add rD,rA,rB` (R102). -/
def execAdd (d a b : Reg) (s : State) : Result := addInto d (s.reg a) (s.reg b) false s
/-- `l.addc rD,rA,rB` (R103). -/
def execAddc (d a b : Reg) (s : State) : Result := addInto d (s.reg a) (s.reg b) (s.srBit SR.CY) s
/-- `l.addi rD,rA,I` (R104). -/
def execAddi (d a : Reg) (i : Half) (s : State) : Result := addInto d (s.reg a) (signedImm i) false s
/-- `l.addic rD,rA,I` (R105). -/
def execAddic (d a : Reg) (i : Half) (s : State) : Result := addInto d (s.reg a) (signedImm i) (s.srBit SR.CY) s

/-- `l.sub rD,rA,rB` (R241). -/
def execSub (d a b : Reg) (s : State) : Result :=
  let x := s.reg a
  let y := s.reg b
  writeReg d (subResult x y) s (finishArith (subCarry x y) (subOverflow x y) (subOverflow x y))

/-- The signed product of R130 into rD, with its flags, SR[CY] by the build's `MUL_CARRY`, and Range on overflow (R132). -/
def mulInto (d : Reg) (x y : Word) (s : State) : Result :=
  writeReg d (mulResult x y) s (finishArith (mulCarry s.build x y) (mulOverflow x y) (mulOverflow x y))

/-- `l.mul rD,rA,rB` (R132). -/
def execMul (d a b : Reg) (s : State) : Result := mulInto d (s.reg a) (s.reg b) s
/-- `l.muli rD,rA,I` (R133). -/
def execMuli (d a : Reg) (i : Half) (s : State) : Result := mulInto d (s.reg a) (signedImm i) s

/-- `l.mulu rD,rA,rB` (R134): SR[OV] is always cleared and nothing is raised. -/
def execMulu (d a b : Reg) (s : State) : Result :=
  let x := s.reg a
  let y := s.reg b
  writeReg d (muluResult x y) s (finishArith (muluCarry x y) false false)

/-- The end of a division by `y` (R111): SR[CY] tells a zero divisor, SR[OV] is cleared, Range on a zero divisor. -/
def finishDiv (y : Word) : State → Result := finishArith (y == 0) false (y == 0)

/-- `l.div rD,rA,rB` (R112). A zero divisor and -2^31 / -1 give a free value. -/
def execDiv (d a b : Reg) (s : State) : Result :=
  let x := s.reg a
  let y := s.reg b
  if y == 0 || divUnrepresentable x y then writeRegFree d s (finishDiv y) else writeReg d (divResult x y) s (finishDiv y)

/-- `l.divu rD,rA,rB` (R113). A zero divisor gives a free value. -/
def execDivu (d a b : Reg) (s : State) : Result :=
  let x := s.reg a
  let y := s.reg b
  if y == 0 then writeRegFree d s (finishDiv y) else writeReg d (divuResult x y) s (finishDiv y)

end Sys2Proof.Machine
end

