-- ==== Sys2Proof/Machine/Compare.lean ====
section
/-! DEFINITION. The twenty compares (49_base_isa_supplement_b.md R263 to R283): each writes SR[F] and nothing else. -/

namespace Sys2Proof.Machine

/-- An unsigned compare with an immediate is refused when bit 15 of the immediate is 1 (R263; log 33). -/
def unsignedCompareImm (i : Half) (b : Bool) (s : State) : Result :=
  if i.msb then .refused .unsignedImmediateBit15 else finishFlag b s

/-- `l.sfeq rA,rB` (R264). -/
def execSfeq (a b : Reg) (s : State) : Result := finishFlag (s.reg a == s.reg b) s
/-- `l.sfne rA,rB` (R265). -/
def execSfne (a b : Reg) (s : State) : Result := finishFlag (s.reg a != s.reg b) s
/-- `l.sfgtu rA,rB` (R266). -/
def execSfgtu (a b : Reg) (s : State) : Result := finishFlag ((s.reg b).ult (s.reg a)) s
/-- `l.sfgeu rA,rB` (R267). -/
def execSfgeu (a b : Reg) (s : State) : Result := finishFlag ((s.reg b).ule (s.reg a)) s
/-- `l.sfltu rA,rB` (R268). -/
def execSfltu (a b : Reg) (s : State) : Result := finishFlag ((s.reg a).ult (s.reg b)) s
/-- `l.sfleu rA,rB` (R269). -/
def execSfleu (a b : Reg) (s : State) : Result := finishFlag ((s.reg a).ule (s.reg b)) s
/-- `l.sfgts rA,rB` (R270). -/
def execSfgts (a b : Reg) (s : State) : Result := finishFlag ((s.reg b).slt (s.reg a)) s
/-- `l.sfges rA,rB` (R271). -/
def execSfges (a b : Reg) (s : State) : Result := finishFlag ((s.reg b).sle (s.reg a)) s
/-- `l.sflts rA,rB` (R272). -/
def execSflts (a b : Reg) (s : State) : Result := finishFlag ((s.reg a).slt (s.reg b)) s
/-- `l.sfles rA,rB` (R273). -/
def execSfles (a b : Reg) (s : State) : Result := finishFlag ((s.reg a).sle (s.reg b)) s

/-- `l.sfeqi rA,I` (R274). -/
def execSfeqi (a : Reg) (i : Half) (s : State) : Result := finishFlag (s.reg a == signedImm i) s
/-- `l.sfnei rA,I` (R275). -/
def execSfnei (a : Reg) (i : Half) (s : State) : Result := finishFlag (s.reg a != signedImm i) s
/-- `l.sfgtui rA,I` (R276). -/
def execSfgtui (a : Reg) (i : Half) (s : State) : Result := unsignedCompareImm i ((signedImm i).ult (s.reg a)) s
/-- `l.sfgeui rA,I` (R277). -/
def execSfgeui (a : Reg) (i : Half) (s : State) : Result := unsignedCompareImm i ((signedImm i).ule (s.reg a)) s
/-- `l.sfltui rA,I` (R278). -/
def execSfltui (a : Reg) (i : Half) (s : State) : Result := unsignedCompareImm i ((s.reg a).ult (signedImm i)) s
/-- `l.sfleui rA,I` (R279). -/
def execSfleui (a : Reg) (i : Half) (s : State) : Result := unsignedCompareImm i ((s.reg a).ule (signedImm i)) s
/-- `l.sfgtsi rA,I` (R280). -/
def execSfgtsi (a : Reg) (i : Half) (s : State) : Result := finishFlag ((signedImm i).slt (s.reg a)) s
/-- `l.sfgesi rA,I` (R281). -/
def execSfgesi (a : Reg) (i : Half) (s : State) : Result := finishFlag ((signedImm i).sle (s.reg a)) s
/-- `l.sfltsi rA,I` (R282). -/
def execSfltsi (a : Reg) (i : Half) (s : State) : Result := finishFlag ((s.reg a).slt (signedImm i)) s
/-- `l.sflesi rA,I` (R283). -/
def execSflesi (a : Reg) (i : Half) (s : State) : Result := finishFlag ((s.reg a).sle (signedImm i)) s

end Sys2Proof.Machine
end

