-- ==== Sys2Proof/Machine/Float.lean ====
section
/-! DEFINITION. The floating point instructions (46_orfpx_orvdx.md R146, R147). -/

namespace Sys2Proof.Machine

/-- FPCSR[RM], bits 2:1 (10_state.md R31). -/
def State.roundingMode (s : State) : BitVec 2 := s.fpcsr.extractLsb' 1 2

/-- FPCSR[FPEE], bit 0 (10_state.md R31). -/
def State.fpee (s : State) : Bool := s.fpcsr.getLsbD 0

/-- The flag fields FPCSR[11:3] take `flags`; RM and FPEE keep their values (10_state.md R31, R147). -/
def State.setFpFlags (s : State) (flags : BitVec 9) : State := { s with fpcsr := flags ++ s.fpcsr.extractLsb' 0 3 }

/-- The end of a floating point instruction: write the flags, then Floating Point when FPEE is set and a flag is (R147). -/
def finishFloat (flags : BitVec 9) (s : State) : Result :=
  let t := s.setFpFlags flags
  if t.fpee && flags != 0 then raise .floatingPoint t else .next t.advance

/-- `lf.madd.s rD,rA,rB` (R147): Illegal Instruction where it is not implemented, else `FMADD32` of rA, rB and the old rD (log 9). -/
def execMaddS (d a b : Reg) (s : State) : Result :=
  if s.build.implementsMaddS then
    let r := Config.fmadd32 (s.reg a) (s.reg b) (s.reg d) s.roundingMode
    writeReg d r.1 s (finishFloat r.2)
  else raise .illegal s

/-- `lf.madd.d rD,rA,rB` (R146): the instruction does not exist on 32-bit hardware; its fields are not examined. -/
def execMaddD (_d _a _b : Reg) (s : State) : Result := raise .illegal s

end Sys2Proof.Machine
end

