-- ==== Sys2Proof/Machine/Jump.lean ====
section
/-! DEFINITION. Register jumps (43_orbis_jump_register.md), direct jumps and branches (48_base_isa_supplement_a.md R201 to R204). A jump in
a delay slot is refused before any check (R123 (d), R125). -/

namespace Sys2Proof.Machine

/-- `x[9] <- pc + 8`, the address of the instruction after the delay slot (R121, R202). -/
def State.link (s : State) : State := s.setReg Config.linkReg (s.pc + 8)

/-- Jump to a register's value, linking or not: Alignment, with the misaligned value, before anything is written (R123). -/
def jumpRegister (t : Word) (after : State) (s : State) : Result :=
  if !alignedTo 4 t then raise (.alignment t) s else .next (after.jump t)

/-- `l.jr rB` (R122). -/
def execJr (b : Reg) (s : State) : Result := outsideSlot s (jumpRegister (s.reg b) s s)

/-- `l.jalr rB` (R121): Illegal Instruction when B is the link register, whatever it holds (R123 (b)). -/
def execJalr (b : Reg) (s : State) : Result :=
  outsideSlot s (if b = Config.linkReg then raise .illegal s else jumpRegister (s.reg b) s.link s)

/-- The target of a direct jump or branch: relative to the jump itself, modulo 2^32 (R201). -/
def State.branchTarget (s : State) (n : BitVec 26) : Word := s.pc + branchOffset n

/-- `l.j N` (R201). -/
def execJ (n : BitVec 26) (s : State) : Result := outsideSlot s (.next (s.jump (s.branchTarget n)))

/-- `l.jal N` (R202). -/
def execJal (n : BitVec 26) (s : State) : Result := outsideSlot s (.next (s.link.jump (s.branchTarget n)))

/-- A conditional branch: taken or not, the next instruction is in a delay slot (R203; log 18). -/
def branchIf (c : Bool) (n : BitVec 26) (s : State) : Result :=
  outsideSlot s (.next (s.jump (if c then s.branchTarget n else s.pc + 8)))

/-- `l.bnf N` (R203). -/
def execBnf (n : BitVec 26) (s : State) : Result := branchIf (!s.srBit SR.F) n s
/-- `l.bf N` (R204). -/
def execBf (n : BitVec 26) (s : State) : Result := branchIf (s.srBit SR.F) n s

end Sys2Proof.Machine
end

