-- ==== Sys2Proof/Machine/Logic.lean ====
section
/-! DEFINITION. Bit search (42_orbis_find_bit.md), exclusive or with immediate (45_orbis_xori.md), the logical instructions, shifts,
extends and the conditional move (49_base_isa_supplement_b.md R242 to R262), l.movhi (48_base_isa_supplement_a.md R206). None of them
writes SR or raises an exception. -/

namespace Sys2Proof.Machine

/-- `l.ff1 rD,rA` (R115). -/
def execFf1 (d a : Reg) (s : State) : Result := finishReg d (findFirstOne (s.reg a)) s
/-- `l.fl1 rD,rA` (R116). -/
def execFl1 (d a : Reg) (s : State) : Result := finishReg d (findLastOne (s.reg a)) s

/-- `l.and rD,rA,rB` (R242). -/
def execAnd (d a b : Reg) (s : State) : Result := finishReg d (s.reg a &&& s.reg b) s
/-- `l.or rD,rA,rB` (R243). -/
def execOr (d a b : Reg) (s : State) : Result := finishReg d (s.reg a ||| s.reg b) s
/-- `l.xor rD,rA,rB` (R244). -/
def execXor (d a b : Reg) (s : State) : Result := finishReg d (s.reg a ^^^ s.reg b) s
/-- `l.andi rD,rA,K` (R245). -/
def execAndi (d a : Reg) (k : Half) (s : State) : Result := finishReg d (s.reg a &&& unsignedImm k) s
/-- `l.ori rD,rA,K` (R246). -/
def execOri (d a : Reg) (k : Half) (s : State) : Result := finishReg d (s.reg a ||| unsignedImm k) s
/-- `l.xori rD,rA,K` (R140; log 8). -/
def execXori (d a : Reg) (k : Half) (s : State) : Result := finishReg d (s.reg a ^^^ xorImm s.build k) s
/-- `l.movhi rD,K` (R206). -/
def execMovhi (d : Reg) (k : Half) (s : State) : Result := finishReg d (k ++ 0#16) s
/-- `l.cmov rD,rA,rB` (R262). -/
def execCmov (d a b : Reg) (s : State) : Result := finishReg d (if s.srBit SR.F then s.reg a else s.reg b) s

/-- `l.sll rD,rA,rB` (R248). -/
def execSll (d a b : Reg) (s : State) : Result := finishReg d (shiftLeft (s.reg a) (regShiftAmount (s.reg b))) s
/-- `l.srl rD,rA,rB` (R249). -/
def execSrl (d a b : Reg) (s : State) : Result := finishReg d (shiftRightLogical (s.reg a) (regShiftAmount (s.reg b))) s
/-- `l.sra rD,rA,rB` (R250). -/
def execSra (d a b : Reg) (s : State) : Result := finishReg d (shiftRightArith (s.reg a) (regShiftAmount (s.reg b))) s
/-- `l.ror rD,rA,rB` (R251). -/
def execRor (d a b : Reg) (s : State) : Result := finishReg d (rotateRight (s.reg a) (regShiftAmount (s.reg b))) s
/-- `l.slli rD,rA,L` (R252). -/
def execSlli (d a : Reg) (l : BitVec 6) (s : State) : Result := finishReg d (shiftLeft (s.reg a) (immShiftAmount l)) s
/-- `l.srli rD,rA,L` (R253). -/
def execSrli (d a : Reg) (l : BitVec 6) (s : State) : Result := finishReg d (shiftRightLogical (s.reg a) (immShiftAmount l)) s
/-- `l.srai rD,rA,L` (R254). -/
def execSrai (d a : Reg) (l : BitVec 6) (s : State) : Result := finishReg d (shiftRightArith (s.reg a) (immShiftAmount l)) s
/-- `l.rori rD,rA,L` (R255). -/
def execRori (d a : Reg) (l : BitVec 6) (s : State) : Result := finishReg d (rotateRight (s.reg a) (immShiftAmount l)) s

/-- `l.exths rD,rA` (R256). -/
def execExths (d a : Reg) (s : State) : Result := finishReg d (extendHalfSigned (s.reg a)) s
/-- `l.extbs rD,rA` (R257). -/
def execExtbs (d a : Reg) (s : State) : Result := finishReg d (extendByteSigned (s.reg a)) s
/-- `l.exthz rD,rA` (R258). -/
def execExthz (d a : Reg) (s : State) : Result := finishReg d (extendHalfZero (s.reg a)) s
/-- `l.extbz rD,rA` (R259). -/
def execExtbz (d a : Reg) (s : State) : Result := finishReg d (extendByteZero (s.reg a)) s
/-- `l.extws rD,rA` (R260): on a 32-bit implementation `x[D] <- x[A]`. -/
def execExtws (d a : Reg) (s : State) : Result := finishReg d (s.reg a) s
/-- `l.extwz rD,rA` (R261): on a 32-bit implementation `x[D] <- x[A]`. -/
def execExtwz (d a : Reg) (s : State) : Result := finishReg d (s.reg a) s

end Sys2Proof.Machine
end

