-- ==== Sys2Proof/Machine/Mac.lean ====
section
/-! DEFINITION. The multiply-accumulate unit (10_state.md R30, 44_orbis_multiply.md R131, 49_base_isa_supplement_b.md R284, R285,
48_base_isa_supplement_a.md R207). -/

namespace Sys2Proof.Machine

/-- `MACHI ++ MACLO`, the 64-bit accumulator (R30). -/
def State.acc (s : State) : BitVec 64 := s.machi ++ s.maclo

/-- `MACHI ++ MACLO <- v`. -/
def State.setAcc (s : State) (v : BitVec 64) : State := { s with machi := v.extractLsb' 32 32, maclo := v.extractLsb' 0 32 }

/-- `l.maci rA,I` (R131): overflow of the sum is silent. -/
def execMaci (a : Reg) (i : Half) (s : State) : Result := .next (s.setAcc (s.acc + macTerm (s.reg a) (signedImm i))).advance
/-- `l.mac rA,rB` (R284; log 26). -/
def execMac (a b : Reg) (s : State) : Result := .next (s.setAcc (s.acc + macTerm (s.reg a) (s.reg b))).advance
/-- `l.msb rA,rB` (R285; log 26). -/
def execMsb (a b : Reg) (s : State) : Result := .next (s.setAcc (s.acc - macTerm (s.reg a) (s.reg b))).advance

/-- `l.macrc rD` (R207): rD takes MACLO, the accumulator is cleared. -/
def execMacrc (d : Reg) (s : State) : Result := writeReg d s.maclo s fun t => .next (t.setAcc 0).advance

end Sys2Proof.Machine
end

