-- ==== Sys2Proof/Machine/Memory.lean ====
section
/-! DEFINITION. Loads and stores (48_base_isa_supplement_a.md R218 to R227). A store to a device window writes its bytes like any other; what
the peripheral does with them is the environment's (20_memory.md R55, 60_exceptions.md R324; log 5). -/

namespace Sys2Proof.Machine

/-- `l.lwz rD,I(rA)` (R219). The address is computed from the old rA (R218). -/
def execLwz (d a : Reg) (i : Half) (s : State) : Result := loadInto 4 d (s.effective a i) (memRead4 · (s.effective a i)) s
/-- `l.lws rD,I(rA)` (R220): as l.lwz on a 32-bit implementation. -/
def execLws (d a : Reg) (i : Half) (s : State) : Result := loadInto 4 d (s.effective a i) (memRead4 · (s.effective a i)) s
/-- `l.lbz rD,I(rA)` (R221). -/
def execLbz (d a : Reg) (i : Half) (s : State) : Result :=
  loadInto 1 d (s.effective a i) (fun m => (m (s.effective a i)).setWidth 32) s
/-- `l.lbs rD,I(rA)` (R222). -/
def execLbs (d a : Reg) (i : Half) (s : State) : Result :=
  loadInto 1 d (s.effective a i) (fun m => (m (s.effective a i)).signExtend 32) s
/-- `l.lhz rD,I(rA)` (R223). -/
def execLhz (d a : Reg) (i : Half) (s : State) : Result :=
  loadInto 2 d (s.effective a i) (fun m => (memRead2 m (s.effective a i)).setWidth 32) s
/-- `l.lhs rD,I(rA)` (R224). -/
def execLhs (d a : Reg) (i : Half) (s : State) : Result :=
  loadInto 2 d (s.effective a i) (fun m => (memRead2 m (s.effective a i)).signExtend 32) s

/-- `l.sw I(rA),rB` (R225). -/
def execSw (a b : Reg) (i : Half) (s : State) : Result :=
  withAccess 4 (s.effective a i) s (.next (s.store4 (s.effective a i) (s.reg b)).advance)
/-- `l.sb I(rA),rB` (R226). -/
def execSb (a b : Reg) (i : Half) (s : State) : Result :=
  withAccess 1 (s.effective a i) s (.next (s.store1 (s.effective a i) ((s.reg b).extractLsb' 0 8)).advance)
/-- `l.sh I(rA),rB` (R227). -/
def execSh (a b : Reg) (i : Half) (s : State) : Result :=
  withAccess 2 (s.effective a i) s (.next (s.store2 (s.effective a i) ((s.reg b).extractLsb' 0 16)).advance)

end Sys2Proof.Machine
end

