-- ==== Sys2Proof/Machine/Pic.lean ====
section
/-! DEFINITION. The programmable interrupt controller (10_state.md R34, R35, R37; 60_exceptions.md R320 to R323). -/

namespace Sys2Proof.Machine

/-- The lines that take no step's input: none asserted, a pending interrupt taken (log 6). -/
def quietInput : EnvInput := ⟨0, true⟩

/-- The inputs of the next step (R37, R323). -/
def State.nextInput (s : State) : EnvInput := s.inputs.headD quietInput

/-- The IUM bits of the lines that are wired, lines 31 to 2 below `PIC_INTS` (R34). -/
def iumWired (b : Build) : BitVec 30 := BitVec.ofNat 30 ((2 ^ b.picInts - 1) / 4)

/-- PICMR as it reads: `IUM ++ 0b11`, the IUM bits of absent lines 0 (R34). -/
def State.picmr (s : State) : Word := (s.ium &&& iumWired s.build) ++ 3#2

/-- `IUM <- v[31:2]`; bits 1:0 of `v` are ignored (R34, 48_base_isa_supplement_a.md R217). -/
def State.setPicmr (s : State) (v : Word) : State := { s with ium := v.extractLsb' 2 30 &&& iumWired s.build }

/-- The start of a step: sample the lines and latch, `PICSR <- PICSR OR (irq AND PICMR)` (R321). Without a PIC nothing latches. -/
def State.sample (s : State) : State :=
  let irq := s.nextInput.irq
  { s with
    irq := irq
    inputs := s.inputs.tail
    picsr := if s.build.hasPic then s.picsr ||| irq &&& s.picmr else s.picsr }

/-- A write of `v` to PICSR: a bit written 0 becomes the level of its unmasked line, a set bit written 1 is kept, and writing 1 to a clear
bit is refused (R322). -/
def State.clearPicsr (s : State) (v : Word) : Except Refusal State :=
  if v &&& ~~~s.picsr = 0 then .ok { s with picsr := v &&& s.picsr ||| ~~~v &&& (s.irq &&& s.picmr) } else .error .setOfClearPicsrBit

/-- What the interrupt test of a step says (R323). -/
inductive InterruptTest where
  /-- No interrupt is taken: the instruction at `pc` runs. -/
  | none
  /-- A pending interrupt is delivered. -/
  | take
  /-- SR[IEE] = 1 and lines are latched, every one of them masked since. -/
  | masked
  deriving DecidableEq, Repr

/-- The interrupt test after the latch update: pending when `PICSR != 0` and SR[IEE] = 1, delivered when `take_irq` is 1 (R323; log 29). -/
def State.interruptTest (s : State) (takeIrq : Bool) : InterruptTest :=
  if !s.srBit SR.IEE || !s.build.hasPic || s.picsr == 0 then .none
  else if s.picsr &&& s.picmr == 0 then .masked
  else if takeIrq then .take
  else .none

end Sys2Proof.Machine
end

