-- ==== Sys2Proof/Machine/Spr.lean ====
section
/-! DEFINITION. The special-purpose registers: their numbers (10_state.md R36), what a read and a write of each does
(48_base_isa_supplement_a.md R217), and l.mfspr and l.mtspr (R215, R216). -/

namespace Sys2Proof.Machine

/-- The modelled special-purpose registers (R217). -/
inductive Spr where
  | vr | upr | cpucfgr | sr | fpcsr | epcr0 | eear0 | esr0 | maclo | machi | picmr | picsr
  deriving DecidableEq, Repr

/-- The register a 16-bit number names (R217). -/
def sprOf (n : BitVec 16) : Option Spr :=
  if n = 0x0000 then some .vr
  else if n = 0x0001 then some .upr
  else if n = 0x0002 then some .cpucfgr
  else if n = 0x0011 then some .sr
  else if n = 0x0014 then some .fpcsr
  else if n = 0x0020 then some .epcr0
  else if n = 0x0030 then some .eear0
  else if n = 0x0040 then some .esr0
  else if n = 0x2801 then some .maclo
  else if n = 0x2802 then some .machi
  else if n = 0x4800 then some .picmr
  else if n = 0x4802 then some .picsr
  else none

/-- The refusal of a number outside the modelled set: NPC and PPC have one of their own (10_state.md R26, R36; log 19). -/
def sprRefusal (n : BitVec 16) : Refusal := if n = 0x0010 ∨ n = 0x0012 then .npcPpcNotModelled else .sprNotModelled

/-- The register a number names in this build: without a PIC its two registers are refused like any other number (R217). -/
def State.sprAt (s : State) (n : BitVec 16) : Except Refusal Spr :=
  match sprOf n with
  | some .picmr => if s.build.hasPic then .ok .picmr else .error .sprNotModelled
  | some .picsr => if s.build.hasPic then .ok .picsr else .error .sprNotModelled
  | some r => .ok r
  | none => .error (sprRefusal n)

/-- What l.mfspr returns (R217). A read has no side effect. -/
def State.readSpr (s : State) : Spr → Word
  | .vr => s.build.vr
  | .upr => setBit s.build.upr 9 s.build.hasPic
  | .cpucfgr => s.build.cpucfgr
  | .sr => s.readSR
  | .fpcsr => s.fpcsr.setWidth 32
  | .epcr0 => s.epcr0
  | .eear0 => s.eear0
  | .esr0 => s.esr0
  | .maclo => s.maclo
  | .machi => s.machi
  | .picmr => s.picmr
  | .picsr => s.picsr

/-- What l.mtspr with value `v` does (R217). -/
def State.writeSpr (s : State) (v : Word) : Spr → Except Refusal State
  | .vr => .error .sprReadOnly
  | .upr => .error .sprReadOnly
  | .cpucfgr => .error .sprReadOnly
  | .sr => match srWritten v with
    | some sr => .ok { s with sr := sr }
    | none => .error .srFieldNotModelled
  | .fpcsr => .ok { s with fpcsr := v.extractLsb' 0 12 }
  | .epcr0 => .ok { s with epcr0 := v }
  | .eear0 => .ok { s with eear0 := v }
  | .esr0 => .ok { s with esr0 := v }
  | .maclo => .ok { s with maclo := v }
  | .machi => .ok { s with machi := v }
  | .picmr => .ok (s.setPicmr v)
  | .picsr => s.clearPicsr v

/-- `l.mfspr rD,rA,K` (R215). In user mode it is refused (60_exceptions.md R331). -/
def execMfspr (d a : Reg) (k : Half) (s : State) : Result :=
  if !s.supervisor then .refused .sprAccessInUserMode
  else match s.sprAt (sprNumber (s.reg a) k) with
    | .ok r => finishReg d (s.readSpr r) s
    | .error e => .refused e

/-- `l.mtspr rA,rB,K` (R216). In user mode it is refused (60_exceptions.md R331). -/
def execMtspr (a b : Reg) (k : Half) (s : State) : Result :=
  if !s.supervisor then .refused .sprAccessInUserMode
  else match s.sprAt (sprNumber (s.reg a) k) with
    | .ok r => match s.writeSpr (s.reg b) r with
      | .ok t => .next t.advance
      | .error e => .refused e
    | .error e => .refused e

end Sys2Proof.Machine
end

