-- ==== Sys2Proof/Machine/System.lean ====
section
/-! DEFINITION. No-operation, synchronisation, system call, trap and return (48_base_isa_supplement_a.md R205, R208 to R214). -/

namespace Sys2Proof.Machine

/-- `l.nop K` (R205): the pc advances; K has no meaning. -/
def execNop (_k : Half) (s : State) : Result := .next s.advance
/-- `l.msync` (R211): with one core in program order nothing is left to wait for (log 24). -/
def execMsync (s : State) : Result := .next s.advance
/-- `l.psync` (R212): every instruction completes before the next is fetched (log 24). -/
def execPsync (s : State) : Result := .next s.advance
/-- `l.csync` (R213): an SR write is in force for the next instruction (log 24). -/
def execCsync (s : State) : Result := .next s.advance
/-- `l.sys K` (R208): K is not used. -/
def execSys (_k : Half) (s : State) : Result := raise .syscall s
/-- `l.trap K` (R209): unconditional, K is ignored (log 26). -/
def execTrap (_k : Half) (s : State) : Result := raise .trap s
/-- `l.rfe` (R214). -/
def execRfe (s : State) : Result := returnFromException s

end Sys2Proof.Machine
end

