-- ==== Sys2Proof/Machine/Dispatch.lean ====
section
/-! DEFINITION. One arm per constructor of Instr, each one direct call of the instruction's meaning. -/

namespace Sys2Proof.Machine

/-- What an instruction does at a state in which it is the instruction at `pc` (10_state.md R25 steps 6 and 7). -/
def exec (i : Instr) (s : State) : Host.Outcome State Fault Refusal :=
  match i with
  | .add d a b => Sys2Proof.Machine.execAdd d a b s
  | .addc d a b => Sys2Proof.Machine.execAddc d a b s
  | .mul d a b => Sys2Proof.Machine.execMul d a b s
  | .div d a b => Sys2Proof.Machine.execDiv d a b s
  | .divu d a b => Sys2Proof.Machine.execDivu d a b s
  | .mulu d a b => Sys2Proof.Machine.execMulu d a b s
  | .ff1 d a => Sys2Proof.Machine.execFf1 d a s
  | .fl1 d a => Sys2Proof.Machine.execFl1 d a s
  | .addi d a imm => Sys2Proof.Machine.execAddi d a imm s
  | .addic d a imm => Sys2Proof.Machine.execAddic d a imm s
  | .xori d a k => Sys2Proof.Machine.execXori d a k s
  | .muli d a imm => Sys2Proof.Machine.execMuli d a imm s
  | .maci a imm => Sys2Proof.Machine.execMaci a imm s
  | .jr b => Sys2Proof.Machine.execJr b s
  | .jalr b => Sys2Proof.Machine.execJalr b s
  | .maddS d a b => Sys2Proof.Machine.execMaddS d a b s
  | .maddD d a b => Sys2Proof.Machine.execMaddD d a b s
  | .j n => Sys2Proof.Machine.execJ n s
  | .jal n => Sys2Proof.Machine.execJal n s
  | .bnf n => Sys2Proof.Machine.execBnf n s
  | .bf n => Sys2Proof.Machine.execBf n s
  | .nop k => Sys2Proof.Machine.execNop k s
  | .movhi d k => Sys2Proof.Machine.execMovhi d k s
  | .macrc d => Sys2Proof.Machine.execMacrc d s
  | .sys k => Sys2Proof.Machine.execSys k s
  | .trap k => Sys2Proof.Machine.execTrap k s
  | .msync => Sys2Proof.Machine.execMsync s
  | .psync => Sys2Proof.Machine.execPsync s
  | .csync => Sys2Proof.Machine.execCsync s
  | .rfe => Sys2Proof.Machine.execRfe s
  | .lwz d a imm => Sys2Proof.Machine.execLwz d a imm s
  | .lws d a imm => Sys2Proof.Machine.execLws d a imm s
  | .lbz d a imm => Sys2Proof.Machine.execLbz d a imm s
  | .lbs d a imm => Sys2Proof.Machine.execLbs d a imm s
  | .lhz d a imm => Sys2Proof.Machine.execLhz d a imm s
  | .lhs d a imm => Sys2Proof.Machine.execLhs d a imm s
  | .mfspr d a k => Sys2Proof.Machine.execMfspr d a k s
  | .mtspr a b k => Sys2Proof.Machine.execMtspr a b k s
  | .sw a b imm => Sys2Proof.Machine.execSw a b imm s
  | .sb a b imm => Sys2Proof.Machine.execSb a b imm s
  | .sh a b imm => Sys2Proof.Machine.execSh a b imm s
  | .sub d a b => Sys2Proof.Machine.execSub d a b s
  | .and d a b => Sys2Proof.Machine.execAnd d a b s
  | .or d a b => Sys2Proof.Machine.execOr d a b s
  | .xor d a b => Sys2Proof.Machine.execXor d a b s
  | .cmov d a b => Sys2Proof.Machine.execCmov d a b s
  | .andi d a k => Sys2Proof.Machine.execAndi d a k s
  | .ori d a k => Sys2Proof.Machine.execOri d a k s
  | .sll d a b => Sys2Proof.Machine.execSll d a b s
  | .srl d a b => Sys2Proof.Machine.execSrl d a b s
  | .sra d a b => Sys2Proof.Machine.execSra d a b s
  | .ror d a b => Sys2Proof.Machine.execRor d a b s
  | .slli d a l => Sys2Proof.Machine.execSlli d a l s
  | .srli d a l => Sys2Proof.Machine.execSrli d a l s
  | .srai d a l => Sys2Proof.Machine.execSrai d a l s
  | .rori d a l => Sys2Proof.Machine.execRori d a l s
  | .exths d a => Sys2Proof.Machine.execExths d a s
  | .extbs d a => Sys2Proof.Machine.execExtbs d a s
  | .exthz d a => Sys2Proof.Machine.execExthz d a s
  | .extbz d a => Sys2Proof.Machine.execExtbz d a s
  | .extws d a => Sys2Proof.Machine.execExtws d a s
  | .extwz d a => Sys2Proof.Machine.execExtwz d a s
  | .sfeq a b => Sys2Proof.Machine.execSfeq a b s
  | .sfne a b => Sys2Proof.Machine.execSfne a b s
  | .sfgtu a b => Sys2Proof.Machine.execSfgtu a b s
  | .sfgeu a b => Sys2Proof.Machine.execSfgeu a b s
  | .sfltu a b => Sys2Proof.Machine.execSfltu a b s
  | .sfleu a b => Sys2Proof.Machine.execSfleu a b s
  | .sfgts a b => Sys2Proof.Machine.execSfgts a b s
  | .sfges a b => Sys2Proof.Machine.execSfges a b s
  | .sflts a b => Sys2Proof.Machine.execSflts a b s
  | .sfles a b => Sys2Proof.Machine.execSfles a b s
  | .sfeqi a imm => Sys2Proof.Machine.execSfeqi a imm s
  | .sfnei a imm => Sys2Proof.Machine.execSfnei a imm s
  | .sfgtui a imm => Sys2Proof.Machine.execSfgtui a imm s
  | .sfgeui a imm => Sys2Proof.Machine.execSfgeui a imm s
  | .sfltui a imm => Sys2Proof.Machine.execSfltui a imm s
  | .sfleui a imm => Sys2Proof.Machine.execSfleui a imm s
  | .sfgtsi a imm => Sys2Proof.Machine.execSfgtsi a imm s
  | .sfgesi a imm => Sys2Proof.Machine.execSfgesi a imm s
  | .sfltsi a imm => Sys2Proof.Machine.execSfltsi a imm s
  | .sflesi a imm => Sys2Proof.Machine.execSflesi a imm s
  | .mac a b => Sys2Proof.Machine.execMac a b s
  | .msb a b => Sys2Proof.Machine.execMsb a b s

end Sys2Proof.Machine
end

