-- ==== Sys2Proof/Machine/Fetch.lean ====
section
/-! DEFINITION. Fetching and decoding the instruction at `pc` (20_memory.md R52, R61; 30_encoding.md R77, R79), and placing one there. -/

namespace Sys2Proof.Machine

/-- What a word without an instruction does: reserved bits are refused; a word that matches no row is refused by name or, when
`UNDECODED_POLICY` is `illegal`, raises Illegal Instruction (30_encoding.md R77, R79; 49_base_isa_supplement_b.md R290; log 31). A fetch reads
four bytes, so it never meets `truncated`. -/
def undecoded (e : DecodeError) (s : State) : Result :=
  match e, s.build.undecoded with
  | .reservedBitsSet, _ => .refused .reservedBitsSet
  | .noSuchInstruction, .refuse => .refused .noSuchInstruction
  | .customInstruction, .refuse => .refused .customInstruction
  | .noSuchInstruction, .illegal => raise .illegal s
  | .customInstruction, .illegal => raise .illegal s
  | .truncated, _ => .refused .fetchOutsideMemoryMap

/-- A byte of the word at `pc` was stored to since launch (20_memory.md R61). -/
def State.fetchesStored (s : State) : Bool := (span s.pc 4).any fun a => s.stored.contains a.toNat

/-- The bytes at `pc`, the lowest address first. -/
def State.fetchBytes (s : State) : List Byte := (span s.pc 4).map s.byteAt

/-- The instruction at `pc`, or how the step ends without one. A word with a byte outside `MEM_MAP` is refused (20_memory.md R52), then one
with a byte in a device window (log 5), then one with a byte stored to since launch (R61). The spec gives these refusals no order; this
one is the model's (DESIGN CHOICE, safe, log 41). -/
def State.fetchInstr (s : State) : Except Result Instr :=
  if !s.isMapped s.pc 4 then .error (.refused .fetchOutsideMemoryMap)
  else if !s.isMemory s.pc 4 then .error (.refused .fetchFromDeviceWindow)
  else if s.fetchesStored then .error (.refused .fetchOfModifiedCode)
  else match decodeBytes s.fetchBytes with
    | .ok (i, _) => .ok i
    | .error e => .error (undecoded e s)

/-- A byte placed by the launch: it is in memory and not stored to by the program (log 22). -/
def State.placeByte (s : State) (a : Word) (v : Byte) : State :=
  { s with mem := Memory.write s.mem a.toNat v, stored := s.stored.filter (· != a.toNat) }

/-- Bytes placed by the launch at `a`, `a + 1` and so on. -/
def State.placeBytes : State → Word → List Byte → State
  | s, _, [] => s
  | s, a, v :: rest => (s.placeByte a v).placeBytes (a + 1) rest

/-- The word at `pc` is memory: where the memory map has none there, the launch declares it. -/
def State.mapFetch (s : State) : State :=
  if s.isMemory s.pc 4 then s else { s with memMap := (span s.pc 4).map (⟨·.toNat, 1, .memory⟩) ++ s.memMap }

/-- A word placed where the next instruction is fetched (log 22). -/
def State.placeWord (s : State) (w : Word) : State := s.mapFetch.placeBytes s.pc (bytesOfWord w)

end Sys2Proof.Machine
end

