-- ==== Sys2Proof/Machine/Step.lean ====
section
/-! DEFINITION. One step of the machine, the instruction cycle of 10_state.md R25. -/

namespace Sys2Proof.Machine

/-- One step (R25): sample and latch the interrupt lines; take an interrupt if one is deliverable; else fetch, decode and run the
instruction at `pc`. -/
def step (s : State) : Host.Outcome State Fault Refusal :=
  match s.sample.interruptTest s.nextInput.takeIrq with
  | .take => raise .interrupt s.sample
  | .masked => .refused .latchedInterruptMasked
  | .none =>
    match s.sample.fetchInstr with
    | .error r => r
    | .ok i => exec i s.sample

/-- The state with an instruction placed where `step` fetches its next one; it runs unless the environment's inputs bring an interrupt
first, which needs SR[IEE] = 1 (log 22). -/
def State.withFetchWord (s : State) (nbits w : Nat) : State := s.placeWord (tableWord nbits w)

end Sys2Proof.Machine
end

