-- ==== Sys2Proof/Safety.lean ====
section
/-! DEFINITION. The words the statements use: what an instruction leaves alone, how the pc goes on, what trap entry leaves behind, the
invariant of every step, and a run to its end address (70_reset_and_hazards.md R358). -/

namespace Sys2Proof.Machine

/-! ## Frames -/

/-- The pieces of state an instruction may write; whatever is not named here keeps its value. -/
structure Writes where
  /-- General registers. -/
  regs : List Reg := []
  /-- Bits of SR. -/
  sr : List Nat := []
  /-- MACHI and MACLO. -/
  mac : Bool := false
  /-- EPCR0, EEAR0 and ESR0. -/
  saved : Bool := false
  /-- FPCSR. -/
  fpcsr : Bool := false
  /-- PICMR. -/
  picmr : Bool := false
  /-- PICSR. -/
  picsr : Bool := false
  /-- Bytes of memory. -/
  bytes : List Word := []
  /-- Free values are used. -/
  draws : Bool := false
  deriving DecidableEq, Repr

/-- `t` keeps every piece of `s` that `w` does not name; the pc and the pending target are left to the other words of a statement. -/
structure Keeps (w : Writes) (s t : State) : Prop where
  regs : ∀ r, r ∉ w.regs → t.reg r = s.reg r
  sr : ∀ i, i ∉ w.sr → t.srBit i = s.srBit i
  mac : w.mac = false → t.machi = s.machi ∧ t.maclo = s.maclo
  saved : w.saved = false → t.epcr0 = s.epcr0 ∧ t.eear0 = s.eear0 ∧ t.esr0 = s.esr0
  fpcsr : w.fpcsr = false → t.fpcsr = s.fpcsr
  picmr : w.picmr = false → t.ium = s.ium
  picsr : w.picsr = false → t.picsr = s.picsr
  memory : ∀ a, a ∉ w.bytes → t.byteAt a = s.byteAt a
  stored : w.bytes = [] → t.stored = s.stored
  draws : w.draws = false → t.draws = s.draws
  platform : t.memMap = s.memMap ∧ t.irq = s.irq ∧ t.inputs = s.inputs ∧ t.build = s.build

/-- The next instruction is the pending target of a jump, else the one after this one; nothing is pending any more (10_state.md R25
step 7). -/
def GoesOn (s t : State) : Prop := t.pc = s.delay.getD (s.pc + 4) ∧ t.delay = none

/-- The next instruction is the one after this one, in the delay slot of a jump to `target` (10_state.md R24, R25 step 7). -/
def JumpsTo (target : Word) (s t : State) : Prop := t.pc = s.pc + 4 ∧ t.delay = some target

/-- A general register may be written with the value: r0 takes zero only (10_state.md R22). -/
def Writable (d : Reg) (v : Word) : Prop := d = 0 → v = 0

/-! ## Trap entry (60_exceptions.md R303, R305, R306) -/

/-- The SR bits that trap entry writes. -/
def SR.trapBits : List Nat := [SR.SM, SR.TEE, SR.IEE, SR.DME, SR.IME, SR.OVE, SR.DSX]

/-- What `t` shows after trap entry from `s`, a state in which the instruction's own writes are done: EPCR0 is `epc`, ESR0 the SR of `s`
with DSX telling a delay slot, the handler starts at `offset` in supervisor mode with interrupts, tick timer, MMUs and the overflow
exception off, every other SR field is kept, and no target is pending (R303, R305). -/
structure Entered (s : State) (offset epc : Word) (t : State) : Prop where
  epcr0 : t.epcr0 = epc
  esr0 : ∀ i, t.esr0.getLsbD i = if i = SR.DSX then s.inSlot else s.srBit i
  supervisor : t.srBit SR.SM = true
  cleared : ∀ i, i ∈ [SR.TEE, SR.IEE, SR.DME, SR.IME, SR.OVE] → t.srBit i = false
  dsx : t.srBit SR.DSX = s.inSlot
  kept : ∀ i, i ∉ SR.trapBits → t.srBit i = s.srBit i
  pc : t.pc = (if s.srBit SR.EPH then 0xF0000000 else 0x00000000) + offset
  delay : t.delay = none

/-- The address an exception that re-executes its instruction saves: the instruction, or the jump before it in a delay slot
(60_exceptions.md R306, R307). -/
def State.resumePc (s : State) : Word := if s.inSlot then s.pc - 4 else s.pc

/-- Trap entry writes SR's trap bits, EPCR0, EEAR0 and ESR0, and nothing else but the pc; EEAR0 may take a free value (R305). -/
def TrapKeeps (s t : State) : Prop := Keeps { sr := SR.trapBits, saved := true, draws := true } s t

/-! ## Arithmetic -/

/-- The exact integer is not a 32-bit signed number (40_orbis_add.md R100). -/
def SignedOverflow (n : Int) : Prop := n < -2147483648 ∨ 2147483647 < n

/-- `MUL_CARRY` of the build says 1 for the operands: by the spec's default the unsigned product is at least 2^32, else the build's own open
function says so (44_orbis_multiply.md R130; log 11). -/
def State.MulCarries (s : State) (x y : Word) : Prop :=
  match s.build.mulCarry with
  | .unsignedProduct => 4294967296 ≤ x.toNat * y.toNat
  | .other => Config.otherMulCarry x y = true

/-- rD holds the result, SR[CY] and SR[OV] tell `cy` and `ov`, and everything else is kept. -/
def ArithWrites (d : Reg) (result : Word) (cy ov : Prop) (s t : State) : Prop :=
  t.reg d = result ∧ (t.srBit SR.CY = true ↔ cy) ∧ (t.srBit SR.OV = true ↔ ov) ∧ Keeps { regs := [d], sr := [SR.CY, SR.OV] } s t

/-- Where no Range exception is due (`ov` with SR[OVE] = 1), the instruction completes with its writes. -/
def ArithCompletes (i : Instr) (d : Reg) (result : Word) (cy ov : Prop) (s : State) : Prop :=
  Writable d result → ¬(ov ∧ s.srBit SR.OVE = true) → ∃ t, exec i s = .next t ∧ ArithWrites d result cy ov s t ∧ GoesOn s t

/-- Where `ov` holds and SR[OVE] = 1, the instruction makes its writes, in a state `u`, and then takes Range: ESR0 shows the new CY and OV,
EPCR0 the instruction itself or the jump before it (40_orbis_add.md R101, 60_exceptions.md R306). -/
def ArithTraps (i : Instr) (d : Reg) (result : Word) (cy ov : Prop) (s : State) : Prop :=
  Writable d result → ov → s.srBit SR.OVE = true →
    ∃ u t, exec i s = .next t ∧ ArithWrites d result cy ov s u ∧ u.pc = s.pc ∧ u.delay = s.delay ∧
      Entered u 0x00000B00 s.resumePc t ∧ TrapKeeps u t

/-! ## Where a step begins -/

/-- Every byte of the word at `pc` is memory and has not been stored to since launch (20_memory.md R52, R61). -/
def State.fetchable (s : State) : Prop := ∀ a ∈ span s.pc 4, s.kindAt a = some .memory ∧ a.toNat ∉ s.stored

/-- No interrupt is taken at this step and none is refused: the instruction at `pc` runs (60_exceptions.md R323). -/
def State.noInterrupt (s : State) : Prop := s.sample.interruptTest s.nextInput.takeIrq = .none

/-- The fields of SR this spec models (10_state.md R28). -/
def SR.modelled : List Nat := [SR.SM, SR.IEE, SR.F, SR.CY, SR.OV, SR.OVE, SR.DSX, SR.FO]

/-- The SPR number of l.mfspr and l.mtspr (48_base_isa_supplement_a.md R215, R216). -/
def State.sprIndex (s : State) (a : Reg) (k : Half) : BitVec 16 := (s.reg a ||| k.setWidth 32).extractLsb' 0 16

/-! ## The invariant -/

/-- What every step keeps: memory and the set of stored addresses in their canonical forms, a word-aligned pc and pending target
(10_state.md R23, 43_orbis_jump_register.md R123), no SR field set that the spec does not model and FO = 1 (10_state.md R28), and no IUM
bit of an absent line (R34). -/
structure State.Inv (s : State) : Prop where
  memory : s.mem.wf = true
  stored : risingFrom 0 s.stored = true
  pcAligned : s.pc.toNat % 4 = 0
  targetAligned : ∀ t, s.delay = some t → t.toNat % 4 = 0
  srModelled : s.sr &&& srNotModelled = 0
  fixedOne : s.sr.getLsbD SR.FO = true
  absentLines : s.ium &&& ~~~iumWired s.build = 0

/-- What nothing changes once a launch has set it (00_scope.md section 4). -/
def SamePlatform (s t : State) : Prop := t.memMap = s.memMap ∧ t.build = s.build

/-! ## A run (70_reset_and_hazards.md R358) -/

/-- The run is over: `pc = END_PC` and `delay = none` (R358). -/
def State.atEnd (endPc : Word) (s : State) : Bool := s.pc == endPc && s.delay == none

/-- At most `n` steps, ending at `END_PC` before the instruction there is executed. A run that has not reached it, or whose step stops, has
no result (R358). -/
def resultOf (endPc : Word) : Nat → State → Option State
  | 0, s => if s.atEnd endPc then some s else none
  | n + 1, s =>
    if s.atEnd endPc then some s
    else match step s with
      | .next t => resultOf endPc n t
      | .fault _ => none
      | .refused _ => none

/-- The states of a run from `s` (70_reset_and_hazards.md R351: no reset event during a run). -/
inductive Reaches (s : State) : State → Prop where
  | start : Reaches s s
  | step {t u : State} : Reaches s t → Sys2Proof.Machine.step t = .next u → Reaches s u

/-- No step of the run from `s` stops the machine. -/
def RunsOn (s : State) : Prop := ∀ t, Reaches s t → ∃ u, step t = .next u

end Sys2Proof.Machine
end

