-- ==== Sys2Proof/Certificates/Slice0/Obligations.lean ====
section
/-! DEFINITION. The statements for the provers, from the numbered rules of spec/. The words they use (`Keeps`, `GoesOn`, `JumpsTo`,
`Entered`, `ArithCompletes`, ...) are Safety.lean's. A list of tuples in a statement covers several instructions of one shape. -/

open Sys2Proof Sys2Proof.Machine

/-! ## Encoding -/

/-- Words written out in the examples of spec/ decode to the instructions they stand for. -/
def Obligations.DecodeOfSpecWords : Prop :=
  ∀ p ∈ ([(0xE0642800, .add 3 4 5), (0xE0642B09, .div 3 4 5), (0xE064010F, .fl1 3 4), (0x9C64FFFF, .addi 3 4 0xFFFF),
      (0x4C04FFFD, .maci 4 0xFFFD), (0x48002800, .jalr 5), (0xC8642807, .maddS 3 4 5), (0x03FFFFFE, .j 0x3FFFFFE), (0x15000001, .nop 1),
      (0x18601234, .movhi 3 0x1234), (0x24000000, .rfe), (0x8864FFFC, .lws 3 4 0xFFFC), (0xC1201800, .mtspr 0 3 0x4800),
      (0xD7E14FFC, .sw 1 9 0xFFFC), (0xB864001F, .slli 3 4 31), (0xE06400CC, .extbz 3 4), (0xE5A42800, .sfles 4 5),
      (0xBD44FFFF, .sfgtsi 4 0xFFFF), (0xC4042802, .msb 4 5)] : List (Word × Instr)), decodeWord p.1 = .ok p.2

/-- Every well-formed instruction is read back from its word and from its bytes, with every operand. -/
def Obligations.DecodeEncodeRoundTrip : Prop :=
  ∀ i : Instr, i.wellFormed = true →
    decodeWord (encode i) = .ok i ∧ ∀ rest, decodeBytes (encodeBytes i ++ rest) = .ok (i, rest)

/-- A word that decodes is the word of the instruction it decodes to, and that instruction is well formed: each word has one meaning. -/
def Obligations.EncodeDecodeRoundTrip : Prop :=
  ∀ (w : Word) (i : Instr), decodeWord w = .ok i → i.wellFormed = true ∧ encode i = w

/-- R77: the encoder sets no reserved bit; a fetched word that selects a row and has a reserved bit set is refused by name, whatever the
row, and no exception is taken. -/
def Obligations.ReservedBitsRefused : Prop :=
  (∀ i : Instr, i.wellFormed = true → ∀ r ∈ table, r.selects (encode i) = true → encode i &&& r.reserved = 0) ∧
  (∀ (s : State) (r : Row), r ∈ table → r.selects (s.load4 s.pc) = true → s.load4 s.pc &&& r.reserved ≠ 0 → s.noInterrupt →
    s.fetchable → step s = .refused .reservedBitsSet)

/-- R290: a word with a major opcode 0x1c to 0x1f or 0x3c to 0x3f selects no row and is refused as a custom instruction, where
`UNDECODED_POLICY` is `refuse`. -/
def Obligations.CustomWordsRefused : Prop :=
  ∀ s : State, majorOpcode (s.load4 s.pc) ∈ ([0x1c, 0x1d, 0x1e, 0x1f, 0x3c, 0x3d, 0x3e, 0x3f] : List (BitVec 6)) →
    (∀ r ∈ table, r.selects (s.load4 s.pc) = false) ∧
    (s.noInterrupt → s.fetchable → s.build.undecoded = .refuse → step s = .refused .customInstruction)

/-- A word that selects no row is refused, a custom word under its own name and every other as no instruction; when `UNDECODED_POLICY` is
`illegal` every such word, a custom one too, raises Illegal Instruction. -/
def Obligations.UnmatchedWords : Prop :=
  ∀ s : State, (∀ r ∈ table, r.selects (s.load4 s.pc) = false) → s.noInterrupt → s.fetchable →
    (s.build.undecoded = .refuse → step s = .refused
      (if majorOpcode (s.load4 s.pc) ∈ ([0x1c, 0x1d, 0x1e, 0x1f, 0x3c, 0x3d, 0x3e, 0x3f] : List (BitVec 6)) then .customInstruction
        else .noSuchInstruction)) ∧
    (s.build.undecoded = .illegal → ∃ t, step s = .next t ∧ Entered s.sample 0x00000700 s.resumePc t ∧ TrapKeeps s.sample t)

/-! ## The step -/

/-- A step whose word decodes runs that instruction, on the state in which the interrupt lines have been sampled and nothing else changed. -/
def Obligations.StepRunsDecoded : Prop :=
  ∀ (s : State) (i : Instr), decodeWord (s.load4 s.pc) = .ok i → s.noInterrupt → s.fetchable →
    step s = exec i s.sample ∧
    s.sample = { s with irq := s.nextInput.irq, inputs := s.inputs.tail, picsr := s.sample.picsr }

/-- A fetch with a byte outside the memory map is refused, whether or not a byte was stored to; that this refusal comes first is the
model's choice (log 41). A fetch inside the map with a byte of a device window is refused too, the model's choice (log 5). -/
def Obligations.FetchStops : Prop :=
  ∀ s : State, s.noInterrupt →
    ((∃ a ∈ span s.pc 4, s.kindAt a = none) → step s = .refused .fetchOutsideMemoryMap) ∧
    ((∀ a ∈ span s.pc 4, s.kindAt a ≠ none) → (∃ a ∈ span s.pc 4, s.kindAt a = some .device) →
      step s = .refused .fetchFromDeviceWindow)

/-- R61: a store adds the bytes it writes to the addresses stored to since launch, no step takes one away, and a fetch of a word in
memory with such a byte is refused. -/
def Obligations.StoredCodeIsNotFetched : Prop :=
  (∀ (s t : State) (a b : Reg) (i : Half), ∀ p ∈ ([(.sb a b i, 1), (.sh a b i, 2), (.sw a b i, 4)] : List (Instr × Nat)),
    (s.effective a i).toNat % p.2 = 0 → exec p.1 s = .next t → ∀ x ∈ span (s.effective a i) p.2, x.toNat ∈ t.stored) ∧
  (∀ s t : State, step s = .next t → ∀ x ∈ s.stored, x ∈ t.stored) ∧
  (∀ s : State, s.noInterrupt → (∀ a ∈ span s.pc 4, s.kindAt a = some .memory) → (∃ a ∈ span s.pc 4, a.toNat ∈ s.stored) →
    step s = .refused .fetchOfModifiedCode)

/-- What a step does about interrupts, after the latch update: nothing without a PIC, with SR[IEE] = 0 or with no line latched; refused when
every latched line is masked; otherwise the interrupt is taken exactly when `take_irq` is 1. -/
def Obligations.InterruptDecision : Prop :=
  ∀ s : State,
    if s.build.hasPic = false ∨ s.srBit SR.IEE = false ∨ s.sample.picsr = 0 then s.noInterrupt
    else if ∀ i ∈ List.range 32, s.sample.picsr.getLsbD i = true → s.picmr.getLsbD i = false then step s = .refused .latchedInterruptMasked
    else if s.nextInput.takeIrq = true then
      ∃ t, step s = .next t ∧ Entered s.sample 0x00000800 s.resumePc t ∧ TrapKeeps s.sample t
    else s.noInterrupt

/-- R321: at the start of every step a line that is asserted and unmasked sets its PICSR bit, lines 0 and 1 being always unmasked, and
every other bit keeps its value; a step ends with that PICSR unless its instruction is an l.mtspr to PICSR, and no bit is ever cleared but
by an l.mtspr that writes it 0. -/
def Obligations.PicLatch : Prop :=
  (∀ (s : State) (i : Nat), s.build.hasPic = true →
    s.sample.picsr.getLsbD i = (s.picsr.getLsbD i || s.nextInput.irq.getLsbD i && s.picmr.getLsbD i)) ∧
  (∀ s : State, s.picmr.getLsbD 0 = true ∧ s.picmr.getLsbD 1 = true) ∧
  (∀ s t : State, step s = .next t → (∀ a b k, decodeWord (s.load4 s.pc) = .ok (.mtspr a b k) → s.sprIndex a k ≠ 0x4802) →
    t.picsr = s.sample.picsr) ∧
  (∀ (s t : State) (j : Nat), step s = .next t → s.picsr.getLsbD j = true → t.picsr.getLsbD j = false →
    ∃ a b k, decodeWord (s.load4 s.pc) = .ok (.mtspr a b k) ∧ s.sprIndex a k = 0x4802 ∧ (s.reg b).getLsbD j = false)

/-- R322: a write of PICSR with no 1 for a clear bit keeps the bits written 1 and gives each bit written 0 the level of its unmasked line;
a write of 1 to a clear bit is refused. -/
def Obligations.PicsrWrite : Prop :=
  ∀ (s : State) (a b : Reg) (k : Half), s.supervisor = true → s.build.hasPic = true → s.sprIndex a k = 0x4802 →
    if ∃ j ∈ List.range 32, (s.reg b).getLsbD j = true ∧ s.picsr.getLsbD j = false then exec (.mtspr a b k) s = .refused .setOfClearPicsrBit
    else ∃ t, exec (.mtspr a b k) s = .next t ∧
      (∀ j, t.picsr.getLsbD j = if (s.reg b).getLsbD j then true else s.irq.getLsbD j && s.picmr.getLsbD j) ∧
      Keeps { picsr := true } s t ∧ GoesOn s t

/-! ## Exceptions and modes -/

/-- l.sys takes System Call with EPCR0 at the next instruction, in either mode, outside a delay slot; in one it is refused. l.trap takes
Trap with EPCR0 at the l.trap itself or at the jump before it. K plays no part in either. -/
def Obligations.SystemCallAndTrap : Prop :=
  ∀ (s : State) (k : Half),
    (s.delay = none → ∃ t, exec (.sys k) s = .next t ∧ Entered s 0x00000C00 (s.pc + 4) t ∧ TrapKeeps s t) ∧
    (s.delay ≠ none → exec (.sys k) s = .refused .nextInstructionExceptionInDelaySlot) ∧
    (∃ t, exec (.trap k) s = .next t ∧ Entered s 0x00000E00 s.resumePc t ∧ TrapKeeps s t)

/-- What raises Illegal Instruction: lf.madd.d always, its register fields unexamined; lf.madd.s where it is not implemented; l.jalr with
the link register as rB, whatever r9 holds, outside a delay slot. No register is written. -/
def Obligations.IllegalInstructionCauses : Prop :=
  ∀ (s : State) (d a b : Reg), ∀ p ∈ ([(.maddD d a b, True), (.maddS d a b, s.build.implementsMaddS = false),
      (.jalr 9, s.delay = none)] : List (Instr × Prop)), p.2 →
    ∃ t, exec p.1 s = .next t ∧ Entered s 0x00000700 s.resumePc t ∧ TrapKeeps s t

/-- l.rfe in supervisor mode, outside a delay slot, with an aligned EPCR0 and an ESR0 of modelled fields: SR is ESR0 with FO = 1, the pc is
EPCR0, and there is no delay slot. -/
def Obligations.RfeReturns : Prop :=
  ∀ s : State, s.supervisor = true → s.delay = none → s.epcr0.toNat % 4 = 0 →
    (∀ i, i ∉ SR.modelled → s.esr0.getLsbD i = false) →
    ∃ t, exec .rfe s = .next t ∧ t.pc = s.epcr0 ∧ t.delay = none ∧
      (∀ i, t.srBit i = if i = SR.FO then true else s.esr0.getLsbD i) ∧ Keeps { sr := List.range 32 } s t

/-- l.rfe that is refused: a misaligned EPCR0; an ESR0 with a field that is not modelled; a delay slot. -/
def Obligations.RfeRefused : Prop :=
  ∀ s : State, s.supervisor = true →
    if s.epcr0.toNat % 4 ≠ 0 then exec .rfe s = .refused .misalignedEpcr0
    else if ∃ i ∈ List.range 32, i ∉ SR.modelled ∧ s.esr0.getLsbD i = true then exec .rfe s = .refused .srFieldNotModelled
    else s.delay ≠ none → exec .rfe s = .refused .rfeInDelaySlot

/-- R331: in user mode l.mfspr and l.mtspr are refused as SPR access, l.rfe as a privileged instruction. -/
def Obligations.UserModePrivilege : Prop :=
  ∀ (s : State) (d a b : Reg) (k : Half), s.srBit SR.SM = false →
    exec (.mfspr d a k) s = .refused .sprAccessInUserMode ∧ exec (.mtspr a b k) s = .refused .sprAccessInUserMode ∧
    exec .rfe s = .refused .privilegedInUserMode

/-- How the mode changes: into supervisor mode only by trap entry, from a state `u` with the pc, the pending target and the SR of `s` but for
F, CY and OV, with EPCR0 at the next instruction for System Call and Floating Point and at the address to resume at for the others; out of
it only by an l.rfe with ESR0[SM] = 0 or an l.mtspr that writes SR with bit 0 clear. -/
def Obligations.ModeChanges : Prop :=
  ∀ s t : State, step s = .next t →
    (s.srBit SR.SM = false → t.srBit SR.SM = true →
      ∃ off u, off ∈ ([0x600, 0x700, 0x800, 0xB00, 0xC00, 0xD00, 0xE00] : List Word) ∧
        u.pc = s.pc ∧ u.delay = s.delay ∧ (∀ i, i ∉ [SR.F, SR.CY, SR.OV] → u.srBit i = s.srBit i) ∧
        Entered u off (if off = 0xC00 ∨ off = 0xD00 then s.pc + 4 else s.resumePc) t ∧ TrapKeeps u t) ∧
    (s.srBit SR.SM = true → t.srBit SR.SM = false →
      (decodeWord (s.load4 s.pc) = .ok .rfe ∧ s.esr0.getLsbD SR.SM = false) ∨
      ∃ a b k, decodeWord (s.load4 s.pc) = .ok (.mtspr a b k) ∧ s.sprIndex a k = 0x0011 ∧ (s.reg b).getLsbD SR.SM = false)

/-- What a step from user mode cannot do, unless it takes an exception into supervisor mode: change EPCR0, EEAR0, ESR0, or any SR field but
F, CY and OV. PICMR it cannot change either way, and it clears no PICSR bit. -/
def Obligations.UserModeIsConfined : Prop :=
  ∀ s t : State, step s = .next t → s.srBit SR.SM = false →
    t.ium = s.ium ∧ (∀ j, s.picsr.getLsbD j = true → t.picsr.getLsbD j = true) ∧
    (t.srBit SR.SM = true ∨
      t.epcr0 = s.epcr0 ∧ t.eear0 = s.eear0 ∧ t.esr0 = s.esr0 ∧ ∀ i, i ∉ [SR.F, SR.CY, SR.OV] → t.srBit i = s.srBit i)

/-! ## Jumps and the delay slot -/

/-- l.j and l.jal outside a delay slot: the target is the jump's own address plus four times the signed offset; l.jal links. -/
def Obligations.DirectJumps : Prop :=
  ∀ (s : State) (n : BitVec 26), s.delay = none →
    (∃ t, exec (.j n) s = .next t ∧ JumpsTo (s.pc + BitVec.ofInt 32 (4 * n.toInt)) s t ∧ Keeps {} s t) ∧
    (∃ t, exec (.jal n) s = .next t ∧ JumpsTo (s.pc + BitVec.ofInt 32 (4 * n.toInt)) s t ∧ t.reg 9 = s.pc + 8 ∧
      Keeps { regs := [9] } s t)

/-- l.bf and l.bnf outside a delay slot: taken or not, the next instruction is in a delay slot; the one after it is at the target or at
`pc + 8`. -/
def Obligations.ConditionalBranches : Prop :=
  ∀ (s : State) (n : BitVec 26), s.delay = none →
    (∃ t, exec (.bf n) s = .next t ∧ Keeps {} s t ∧
      JumpsTo (if s.srBit SR.F then s.pc + BitVec.ofInt 32 (4 * n.toInt) else s.pc + 8) s t) ∧
    (∃ t, exec (.bnf n) s = .next t ∧ Keeps {} s t ∧
      JumpsTo (if s.srBit SR.F then s.pc + 8 else s.pc + BitVec.ofInt 32 (4 * n.toInt)) s t)

/-- l.jr and l.jalr outside a delay slot with a word-aligned rB: the target is rB as it is at the jump; l.jalr links, so the instruction in
the delay slot sees the new r9. -/
def Obligations.RegisterJumps : Prop :=
  ∀ (s : State) (b : Reg), s.delay = none → (s.reg b).toNat % 4 = 0 →
    (∃ t, exec (.jr b) s = .next t ∧ JumpsTo (s.reg b) s t ∧ Keeps {} s t) ∧
    (b ≠ 9 → ∃ t, exec (.jalr b) s = .next t ∧ JumpsTo (s.reg b) s t ∧ t.reg 9 = s.pc + 8 ∧ Keeps { regs := [9] } s t)

/-- R124: in the delay slot of l.jalr the link register reads as the new value, and a write to it there replaces that value; l.ori stands for
an instruction that reads and one that writes it. -/
def Obligations.LinkRegisterInDelaySlot : Prop :=
  ∀ (s : State) (a b d : Reg) (k : Half), s.delay = none → (s.reg b).toNat % 4 = 0 → b ≠ 9 →
    ∃ t, exec (.jalr b) s = .next t ∧ t.inSlot = true ∧ t.reg 9 = s.pc + 8 ∧
      (d ≠ 0 → ∃ u, exec (.ori d 9 k) t = .next u ∧ u.reg d = (s.pc + 8) ||| k.setWidth 32 ∧ u.pc = s.reg b) ∧
      ∃ u, exec (.ori 9 a k) t = .next u ∧ u.reg 9 = t.reg a ||| k.setWidth 32 ∧ u.pc = s.reg b

/-- R53: l.jr and l.jalr (with B other than the link register) outside a delay slot raise Alignment when rB is not word aligned, recording
rB; no register, r9 among them, and no pending target is written. -/
def Obligations.MisalignedJumpTarget : Prop :=
  ∀ (s : State) (b : Reg), s.delay = none → (s.reg b).extractLsb' 0 2 ≠ 0 →
    ∀ ins ∈ (if b = 9 then [.jr b] else [.jr b, .jalr b] : List Instr),
      ∃ t, exec ins s = .next t ∧ Entered s 0x00000600 s.pc t ∧ t.eear0 = s.reg b ∧ Keeps { sr := SR.trapBits, saved := true } s t

/-- R125: in a delay slot every jump and branch is refused, before any of its own checks. -/
def Obligations.JumpInDelaySlotRefused : Prop :=
  ∀ (s : State) (b : Reg) (n : BitVec 26), s.delay ≠ none →
    ∀ ins ∈ ([.jr b, .jalr b, .j n, .jal n, .bf n, .bnf n] : List Instr), exec ins s = .refused .jumpInDelaySlot

/-- The delay slot, of the whole machine: a step with a target pending either reaches the target or takes an exception that records the
delay slot and the address of the jump; either way nothing is pending after it. -/
def Obligations.DelaySlotThenTarget : Prop :=
  ∀ (s t : State) (target : Word), s.delay = some target → step s = .next t →
    t.delay = none ∧ (t.pc = target ∨ t.srBit SR.DSX = true ∧ t.epcr0 = s.pc - 4)

/-! ## Arithmetic -/

/-- l.add, l.addc, l.addi, l.addic: the sum modulo 2^32, the carry out of bit 31 and the signed overflow, where Range is not due. -/
def Obligations.AdditionResults : Prop :=
  ∀ (s : State) (d a b : Reg) (i : Half), ∀ p ∈ ([(.add d a b, s.reg b, false), (.addc d a b, s.reg b, s.srBit SR.CY),
      (.addi d a i, i.signExtend 32, false), (.addic d a i, i.signExtend 32, s.srBit SR.CY)] : List (Instr × Word × Bool)),
    ArithCompletes p.1 d (s.reg a + p.2.1 + (BitVec.ofBool p.2.2).setWidth 32)
      (4294967296 ≤ (s.reg a).toNat + p.2.1.toNat + p.2.2.toNat) (SignedOverflow ((s.reg a).toInt + p.2.1.toInt + p.2.2.toNat)) s

/-- The signed overflow of l.add and l.addc read off the signs: the operands agree in bit 31 and the result does not. -/
def Obligations.OverflowSignLaw : Prop :=
  ∀ (s : State) (d a b : Reg), d ≠ 0 → s.srBit SR.OVE = false → ∀ ins ∈ ([.add d a b, .addc d a b] : List Instr),
    ∃ t, exec ins s = .next t ∧
      (t.srBit SR.OV = true ↔ (s.reg a).msb = (s.reg b).msb ∧ (t.reg d).msb ≠ (s.reg a).msb)

/-- l.sub: the difference modulo 2^32, the borrow and the signed overflow, where Range is not due. -/
def Obligations.SubtractionResults : Prop :=
  ∀ (s : State) (d a b : Reg), ArithCompletes (.sub d a b) d (s.reg a - s.reg b) ((s.reg a).toNat < (s.reg b).toNat)
    (SignedOverflow ((s.reg a).toInt - (s.reg b).toInt)) s

/-- l.mul, l.muli (SR[CY] by the build's `MUL_CARRY`, the spec's default or any other function) and l.mulu, whose SR[OV] is always cleared and
which raises nothing; the low 32 bits do not depend on signedness. -/
def Obligations.MultiplyResults : Prop :=
  ∀ (s : State) (d a b : Reg) (i : Half),
    (∀ p ∈ ([(.mul d a b, s.reg b), (.muli d a i, i.signExtend 32)] : List (Instr × Word)),
      ArithCompletes p.1 d (s.reg a * p.2) (s.MulCarries (s.reg a) p.2)
        (SignedOverflow ((s.reg a).toInt * p.2.toInt)) s) ∧
    ArithCompletes (.mulu d a b) d (s.reg a * s.reg b) (4294967296 ≤ (s.reg a).toNat * (s.reg b).toNat) False s

/-- Signed overflow with SR[OVE] = 1 in an addition, a subtraction or a signed multiplication: rD and both flags are written, then Range is
taken, with the address of the instruction and the SR with the new flags; SR[CY] of a multiplication is by the build's `MUL_CARRY`. -/
def Obligations.OverflowRaisesRange : Prop :=
  ∀ (s : State) (d a b : Reg) (i : Half),
    (∀ p ∈ ([(.add d a b, s.reg b, false), (.addc d a b, s.reg b, s.srBit SR.CY), (.addi d a i, i.signExtend 32, false),
        (.addic d a i, i.signExtend 32, s.srBit SR.CY)] : List (Instr × Word × Bool)),
      ArithTraps p.1 d (s.reg a + p.2.1 + (BitVec.ofBool p.2.2).setWidth 32)
        (4294967296 ≤ (s.reg a).toNat + p.2.1.toNat + p.2.2.toNat) (SignedOverflow ((s.reg a).toInt + p.2.1.toInt + p.2.2.toNat)) s) ∧
    ArithTraps (.sub d a b) d (s.reg a - s.reg b) ((s.reg a).toNat < (s.reg b).toNat)
      (SignedOverflow ((s.reg a).toInt - (s.reg b).toInt)) s ∧
    (∀ p ∈ ([(.mul d a b, s.reg b), (.muli d a i, i.signExtend 32)] : List (Instr × Word)),
      ArithTraps p.1 d (s.reg a * p.2) (s.MulCarries (s.reg a) p.2) (SignedOverflow ((s.reg a).toInt * p.2.toInt)) s)

/-- l.div and l.divu where there is a quotient: it is rounded toward zero, SR[CY] and SR[OV] are cleared, whatever SR[OVE] is. -/
def Obligations.DivisionQuotients : Prop :=
  ∀ (s : State) (d a b : Reg), s.reg b ≠ 0 →
    (¬(s.reg a = 0x80000000 ∧ s.reg b = 0xFFFFFFFF) →
      ArithCompletes (.div d a b) d
        (BitVec.ofInt 32 ((if ((s.reg a).toInt < 0) ↔ ((s.reg b).toInt < 0) then 1 else -1) *
          (((s.reg a).toInt.natAbs / (s.reg b).toInt.natAbs : Nat) : Int))) False False s) ∧
    ArithCompletes (.divu d a b) d (BitVec.ofNat 32 ((s.reg a).toNat / (s.reg b).toNat)) False False s

/-- The divisions without a quotient that do not raise: -2^31 / -1, and a zero divisor with SR[OVE] = 0. They complete with an open value in
rD; SR[CY] tells the zero divisor and SR[OV] is cleared. Into r0 they are refused. -/
def Obligations.DivisionOpenResults : Prop :=
  ∀ (s : State) (d a b : Reg), ∀ p ∈ ([(.div d a b, s.reg b = 0 ∧ s.srBit SR.OVE = false, true),
      (.divu d a b, s.reg b = 0 ∧ s.srBit SR.OVE = false, true),
      (.div d a b, s.reg a = 0x80000000 ∧ s.reg b = 0xFFFFFFFF, false)] : List (Instr × Prop × Bool)), p.2.1 →
    (d ≠ 0 → ∃ t, exec p.1 s = .next t ∧ t.srBit SR.CY = p.2.2 ∧ t.srBit SR.OV = false ∧
      Keeps { regs := [d], sr := [SR.CY, SR.OV], draws := true } s t ∧ GoesOn s t) ∧
    (d = 0 → exec p.1 s = .refused .nonZeroWriteToR0)

/-- A zero divisor with SR[OVE] = 1: rD takes an open value, SR[CY] is set and SR[OV] cleared, in a state `u` at the same place, and then
Range is taken. Into r0 it is refused, and no exception is taken. -/
def Obligations.DivisionByZeroRaisesRange : Prop :=
  ∀ (s : State) (d a b : Reg), s.reg b = 0 → s.srBit SR.OVE = true → ∀ ins ∈ ([.div d a b, .divu d a b] : List Instr),
    if d = 0 then exec ins s = .refused .nonZeroWriteToR0
    else ∃ u t, exec ins s = .next t ∧ u.srBit SR.CY = true ∧ u.srBit SR.OV = false ∧ u.pc = s.pc ∧ u.delay = s.delay ∧
      Keeps { regs := [d], sr := [SR.CY, SR.OV], draws := true } s u ∧ t.reg d = u.reg d ∧
      Entered u 0x00000B00 s.resumePc t ∧ TrapKeeps u t

/-! ## Bits, logic, shifts, moves -/

/-- l.ff1 and l.fl1: one more than the least and the greatest set bit of rA, 0 when there is none. -/
def Obligations.FindBits : Prop :=
  ∀ (s : State) (d a : Reg), (d = 0 → s.reg a = 0) →
    (∃ t, exec (.ff1 d a) s = .next t ∧ Keeps { regs := [d] } s t ∧ GoesOn s t ∧ (s.reg a = 0 → t.reg d = 0) ∧
      ∀ i, (s.reg a).getLsbD i = true → (∀ j, j < i → (s.reg a).getLsbD j = false) → (t.reg d).toNat = i + 1) ∧
    (∃ t, exec (.fl1 d a) s = .next t ∧ Keeps { regs := [d] } s t ∧ GoesOn s t ∧ (s.reg a = 0 → t.reg d = 0) ∧
      ∀ i, (s.reg a).getLsbD i = true → (∀ j, i < j → (s.reg a).getLsbD j = false) → (t.reg d).toNat = i + 1)

/-- The logical instructions, l.movhi, l.cmov and the extends: the result goes to rD, no flag is written, nothing else changes. -/
def Obligations.LogicAndMoves : Prop :=
  ∀ (s : State) (d a b : Reg) (k : Half), ∀ p ∈ ([(.and d a b, s.reg a &&& s.reg b), (.or d a b, s.reg a ||| s.reg b),
      (.xor d a b, s.reg a ^^^ s.reg b), (.andi d a k, s.reg a &&& k.setWidth 32), (.ori d a k, s.reg a ||| k.setWidth 32),
      (.movhi d k, k.setWidth 32 * 65536), (.cmov d a b, if s.srBit SR.F then s.reg a else s.reg b),
      (.exths d a, ((s.reg a).setWidth 16).signExtend 32), (.extbs d a, ((s.reg a).setWidth 8).signExtend 32),
      (.exthz d a, s.reg a &&& 0x0000FFFF), (.extbz d a, s.reg a &&& 0x000000FF),
      (.extws d a, s.reg a), (.extwz d a, s.reg a)] : List (Instr × Word)),
    Writable d p.2 → ∃ t, exec p.1 s = .next t ∧ t.reg d = p.2 ∧ Keeps { regs := [d] } s t ∧ GoesOn s t

/-- l.xori under either value of `XORI_SIGN_EXTEND`; the two agree whenever bit 15 of K is 0. -/
def Obligations.XoriExtensions : Prop :=
  ∀ (s : State) (d a : Reg) (k : Half),
    (Writable d (s.reg a ^^^ (if s.build.xoriSignExtend then k.signExtend 32 else k.setWidth 32)) →
      ∃ t, exec (.xori d a k) s = .next t ∧ Keeps { regs := [d] } s t ∧ GoesOn s t ∧
        t.reg d = s.reg a ^^^ (if s.build.xoriSignExtend then k.signExtend 32 else k.setWidth 32)) ∧
    (k.getLsbD 15 = false → k.signExtend 32 = k.setWidth 32)

/-- The shifts and the rotate, by the low five bits of rB or of L: left, right with zeros, right with copies of the sign (the floor of a
division by a power of two), and bit by bit for the rotate. An amount of 0 returns rA. A word with bit 5 of L set is refused by the decoder,
as the spec says; that `exec` on such an L uses the low five bits is the model's choice (log 32). -/
def Obligations.ShiftResults : Prop :=
  ∀ (s : State) (d a b : Reg) (l : BitVec 6),
    ∀ p ∈ ([(.sll d a b, .srl d a b, .sra d a b, .ror d a b, (s.reg b).toNat % 32),
      (.slli d a l, .srli d a l, .srai d a l, .rori d a l, l.toNat % 32)] : List (Instr × Instr × Instr × Instr × Nat)),
    match p with
    | (left, right, arith, rotate, n) =>
      (∀ q ∈ ([(left, BitVec.ofNat 32 ((s.reg a).toNat * 2 ^ n)), (right, BitVec.ofNat 32 ((s.reg a).toNat / 2 ^ n)),
          (arith, BitVec.ofInt 32 ((s.reg a).toInt / 2 ^ n))] : List (Instr × Word)),
        Writable d q.2 → ∃ t, exec q.1 s = .next t ∧ t.reg d = q.2 ∧ Keeps { regs := [d] } s t ∧ GoesOn s t) ∧
      ((d = 0 → s.reg a = 0) → ∃ t, exec rotate s = .next t ∧ Keeps { regs := [d] } s t ∧ GoesOn s t ∧
        ∀ j, j < 32 → (t.reg d).getLsbD j = (s.reg a).getLsbD ((j + n) % 32))

/-! ## Compares -/

/-- The twenty compares: SR[F] is the outcome and nothing else changes. The four unsigned immediate forms have bit 15 of the immediate 0. -/
def Obligations.CompareResults : Prop :=
  ∀ (s : State) (a b : Reg) (i : Half), ∀ p ∈ ([
      (.sfeq a b, s.reg a = s.reg b), (.sfne a b, s.reg a ≠ s.reg b),
      (.sfgtu a b, (s.reg a).toNat > (s.reg b).toNat), (.sfgeu a b, (s.reg a).toNat ≥ (s.reg b).toNat),
      (.sfltu a b, (s.reg a).toNat < (s.reg b).toNat), (.sfleu a b, (s.reg a).toNat ≤ (s.reg b).toNat),
      (.sfgts a b, (s.reg a).toInt > (s.reg b).toInt), (.sfges a b, (s.reg a).toInt ≥ (s.reg b).toInt),
      (.sflts a b, (s.reg a).toInt < (s.reg b).toInt), (.sfles a b, (s.reg a).toInt ≤ (s.reg b).toInt),
      (.sfeqi a i, (s.reg a).toInt = i.toInt), (.sfnei a i, (s.reg a).toInt ≠ i.toInt),
      (.sfgtsi a i, (s.reg a).toInt > i.toInt), (.sfgesi a i, (s.reg a).toInt ≥ i.toInt),
      (.sfltsi a i, (s.reg a).toInt < i.toInt), (.sflesi a i, (s.reg a).toInt ≤ i.toInt)] ++
      (if i.getLsbD 15 then [] else [(.sfgtui a i, (s.reg a).toNat > i.toNat), (.sfgeui a i, (s.reg a).toNat ≥ i.toNat),
        (.sfltui a i, (s.reg a).toNat < i.toNat), (.sfleui a i, (s.reg a).toNat ≤ i.toNat)]) : List (Instr × Prop)),
    ∃ t, exec p.1 s = .next t ∧ (t.srBit SR.F = true ↔ p.2) ∧ Keeps { sr := [SR.F] } s t ∧ GoesOn s t

/-- An unsigned compare with an immediate whose bit 15 is 1 is refused. -/
def Obligations.UnsignedImmediateRefused : Prop :=
  ∀ (s : State) (a : Reg) (i : Half), i.getLsbD 15 = true →
    ∀ ins ∈ ([.sfgtui a i, .sfgeui a i, .sfltui a i, .sfleui a i] : List Instr), exec ins s = .refused .unsignedImmediateBit15

/-! ## The accumulator -/

/-- l.maci, l.mac and l.msb: the signed product is cut to 32 bits, sign extended, and added to or subtracted from MACHI ++ MACLO modulo 2^64;
nothing else changes. -/
def Obligations.MultiplyAccumulate : Prop :=
  ∀ (s : State) (a b : Reg) (i : Half), ∀ p ∈ ([(.maci a i, 1, s.reg a * i.signExtend 32), (.mac a b, 1, s.reg a * s.reg b),
      (.msb a b, -1, s.reg a * s.reg b)] : List (Instr × Int × Word)),
    ∃ t, exec p.1 s = .next t ∧ Keeps { mac := true } s t ∧ GoesOn s t ∧
      t.machi ++ t.maclo = BitVec.ofInt 64 ((s.machi ++ s.maclo).toInt + p.2.1 * p.2.2.toInt)

/-- l.macrc: rD takes the low word of the accumulator, which is cleared. -/
def Obligations.MacReadAndClear : Prop :=
  ∀ (s : State) (d : Reg), Writable d s.maclo →
    ∃ t, exec (.macrc d) s = .next t ∧ t.reg d = s.maclo ∧ t.machi = 0 ∧ t.maclo = 0 ∧ Keeps { regs := [d], mac := true } s t ∧ GoesOn s t

/-! ## Loads and stores -/

/-- The six loads, aligned and in memory: big-endian, zero or sign extended into rD; no memory and no other register changes. -/
def Obligations.LoadResults : Prop :=
  ∀ (s : State) (d a : Reg) (i : Half), s.effective a i = s.reg a + i.signExtend 32 ∧
    let ea := s.effective a i
    ∀ p ∈ ([(.lwz d a i, 4, s.byteAt ea ++ s.byteAt (ea + 1) ++ s.byteAt (ea + 2) ++ s.byteAt (ea + 3)),
      (.lws d a i, 4, s.byteAt ea ++ s.byteAt (ea + 1) ++ s.byteAt (ea + 2) ++ s.byteAt (ea + 3)),
      (.lhz d a i, 2, (s.byteAt ea ++ s.byteAt (ea + 1)).setWidth 32), (.lhs d a i, 2, (s.byteAt ea ++ s.byteAt (ea + 1)).signExtend 32),
      (.lbz d a i, 1, (s.byteAt ea).setWidth 32), (.lbs d a i, 1, (s.byteAt ea).signExtend 32)] : List (Instr × Nat × Word)),
    ea.toNat % p.2.1 = 0 → (∀ x ∈ span ea p.2.1, s.kindAt x = some .memory) → Writable d p.2.2 →
      ∃ t, exec p.1 s = .next t ∧ t.reg d = p.2.2 ∧ Keeps { regs := [d] } s t ∧ GoesOn s t

/-- The three stores, aligned and in memory, over a memory in its canonical form: the bytes at the effective address take the low bytes of
rB, most significant first, and no other byte and no register changes. -/
def Obligations.StoreResults : Prop :=
  ∀ (s : State) (a b : Reg) (i : Half), s.effective a i = s.reg a + i.signExtend 32 ∧
    ∀ p ∈ ([(.sw a b i, 4), (.sh a b i, 2), (.sb a b i, 1)] : List (Instr × Nat)),
    (s.effective a i).toNat % p.2 = 0 → (∀ x ∈ span (s.effective a i) p.2, s.kindAt x = some .memory) → s.mem.wf = true →
      ∃ t, exec p.1 s = .next t ∧ Keeps { bytes := span (s.effective a i) p.2 } s t ∧ GoesOn s t ∧
        ∀ j, j < p.2 → t.byteAt (s.effective a i + BitVec.ofNat 32 j) = (s.reg b).extractLsb' (8 * (p.2 - 1 - j)) 8

/-- A misaligned word or half-word access raises Alignment with EEAR0 at the effective address and makes no access (R54); a byte access is
never misaligned and completes wherever in the memory map it is. That it completes in a device window too is the model's choice (log 5). -/
def Obligations.MisalignedAccess : Prop :=
  ∀ (s : State) (d a b : Reg) (i : Half),
    (∀ p ∈ ([(.lwz d a i, 4), (.lws d a i, 4), (.sw a b i, 4), (.lhz d a i, 2), (.lhs d a i, 2), (.sh a b i, 2)] : List (Instr × Nat)),
      (s.effective a i).toNat % p.2 ≠ 0 →
      ∃ t, exec p.1 s = .next t ∧ Entered s 0x00000600 s.resumePc t ∧ t.eear0 = s.effective a i ∧
        Keeps { sr := SR.trapBits, saved := true } s t) ∧
    (∀ ins ∈ ([.lbz d a i, .lbs d a i, .sb a b i] : List Instr), s.kindAt (s.effective a i) ≠ none → d ≠ 0 →
      ∃ t, exec ins s = .next t ∧ GoesOn s t)

/-- R218 beyond memory. An aligned access with a byte outside the memory map is refused. An access inside the map with a byte in a device
window goes on (what the peripheral answers and does is open; the model's choice, log 5): a load takes memory's bytes as they are and some
byte for each of the peripheral's, by its own extension, and is refused where that is a non-zero write to r0; a store writes only its own
bytes. -/
def Obligations.AccessOutsideMemory : Prop :=
  ∀ (s : State) (d a b : Reg) (i : Half),
    let ea := s.effective a i
    (∀ p ∈ ([(.lwz d a i, 4), (.lws d a i, 4), (.sw a b i, 4), (.lhz d a i, 2), (.lhs d a i, 2), (.sh a b i, 2), (.lbz d a i, 1),
        (.lbs d a i, 1), (.sb a b i, 1)] : List (Instr × Nat)),
      ea.toNat % p.2 = 0 → (∃ x ∈ span ea p.2, s.kindAt x = none) → exec p.1 s = .refused .accessOutsideMemoryMap) ∧
    (∀ p ∈ ([(.lwz d a i, 4, fun m => m ea ++ m (ea + 1) ++ m (ea + 2) ++ m (ea + 3)),
        (.lws d a i, 4, fun m => m ea ++ m (ea + 1) ++ m (ea + 2) ++ m (ea + 3)),
        (.lhz d a i, 2, fun m => (m ea ++ m (ea + 1)).setWidth 32), (.lhs d a i, 2, fun m => (m ea ++ m (ea + 1)).signExtend 32),
        (.lbz d a i, 1, fun m => (m ea).setWidth 32), (.lbs d a i, 1, fun m => (m ea).signExtend 32)] :
          List (Instr × Nat × ((Word → Byte) → Word))),
      ea.toNat % p.2.1 = 0 → (∀ x ∈ span ea p.2.1, s.kindAt x ≠ none) → (∃ x ∈ span ea p.2.1, s.kindAt x = some .device) →
      ∃ m : Word → Byte, (∀ x, s.kindAt x = some .memory → m x = s.byteAt x) ∧
        if d = 0 ∧ p.2.2 m ≠ 0 then exec p.1 s = .refused .nonZeroWriteToR0
        else ∃ t, exec p.1 s = .next t ∧ t.reg d = p.2.2 m ∧ Keeps { regs := [d], draws := true } s t ∧ GoesOn s t) ∧
    (∀ p ∈ ([(.sw a b i, 4), (.sh a b i, 2), (.sb a b i, 1)] : List (Instr × Nat)),
      ea.toNat % p.2 = 0 → (∀ x ∈ span ea p.2, s.kindAt x ≠ none) → (∃ x ∈ span ea p.2, s.kindAt x = some .device) →
      ∃ t, exec p.1 s = .next t ∧ Keeps { bytes := span ea p.2 } s t ∧ GoesOn s t)

/-- Mixed widths see one big-endian layout: after a word store, a byte load at its address gives the most significant byte and a half-word
load two bytes on gives the low half. -/
def Obligations.BigEndianMixedWidths : Prop :=
  ∀ (s t : State) (a b d e : Reg) (i j : Half), s.mem.wf = true → (s.effective a i).toNat % 4 = 0 →
    (∀ x ∈ span (s.effective a i) 4, s.kindAt x = some .memory) →
    exec (.sw a b i) s = .next t → d ≠ 0 →
    (t.effective e j = s.effective a i → ∃ u, exec (.lbz d e j) t = .next u ∧ (u.reg d).toNat = (s.reg b).toNat / 16777216) ∧
    (t.effective e j = s.effective a i + 2 → ∃ u, exec (.lhz d e j) t = .next u ∧ (u.reg d).toNat = (s.reg b).toNat % 65536)

/-! ## Special-purpose registers -/

/-- l.mfspr in supervisor mode: what each number returns, with rA and K combined by OR; nothing but rD changes. -/
def Obligations.MfsprReads : Prop :=
  ∀ (s : State) (d a : Reg) (k : Half), s.supervisor = true → ∀ p ∈ ([(0x0000, s.build.vr),
      (0x0001, if s.build.hasPic then s.build.upr ||| 0x00000200 else s.build.upr &&& 0xFFFFFDFF), (0x0002, s.build.cpucfgr),
      (0x0011, s.sr ||| 0x00008000), (0x0014, s.fpcsr.setWidth 32), (0x0020, s.epcr0), (0x0030, s.eear0), (0x0040, s.esr0),
      (0x2801, s.maclo), (0x2802, s.machi)] ++
      (if s.build.hasPic then [(0x4800, s.picmr), (0x4802, s.picsr)] else []) : List (BitVec 16 × Word)),
    s.sprIndex a k = p.1 → Writable d p.2 →
      ∃ t, exec (.mfspr d a k) s = .next t ∧ t.reg d = p.2 ∧ Keeps { regs := [d] } s t ∧ GoesOn s t

/-- l.mtspr in supervisor mode to FPCSR, EPCR0, EEAR0, ESR0, MACLO, MACHI: the register takes rB (FPCSR its low 12 bits) and nothing else
changes. -/
def Obligations.MtsprWrites : Prop :=
  ∀ (s : State) (a b : Reg) (k : Half), s.supervisor = true → ∀ p ∈ ([(0x0014, { s with fpcsr := (s.reg b).setWidth 12 }),
      (0x0020, { s with epcr0 := s.reg b }), (0x0030, { s with eear0 := s.reg b }), (0x0040, { s with esr0 := s.reg b }),
      (0x2801, { s with maclo := s.reg b }), (0x2802, { s with machi := s.reg b })] : List (BitVec 16 × State)),
    s.sprIndex a k = p.1 → ∃ t, exec (.mtspr a b k) s = .next t ∧ GoesOn s t ∧ t = { p.2 with pc := t.pc, delay := t.delay }

/-- l.mtspr in supervisor mode to SR: the modelled fields take rB and FO stays 1, unless rB sets a field that is not modelled, which is
refused. -/
def Obligations.MtsprSr : Prop :=
  ∀ (s : State) (a b : Reg) (k : Half), s.supervisor = true → s.sprIndex a k = 0x0011 →
    if ∃ i ∈ List.range 32, i ∉ SR.modelled ∧ (s.reg b).getLsbD i = true then exec (.mtspr a b k) s = .refused .srFieldNotModelled
    else ∃ t, exec (.mtspr a b k) s = .next t ∧ (∀ i, t.srBit i = if i = SR.FO then true else (s.reg b).getLsbD i) ∧
      Keeps { sr := List.range 32 } s t ∧ GoesOn s t

/-- l.mtspr in supervisor mode to PICMR: IUM takes bits 31:2 of rB but for lines that are not wired, and bits 1:0 stay 0b11. -/
def Obligations.MtsprPicmr : Prop :=
  ∀ (s : State) (a b : Reg) (k : Half), s.supervisor = true → s.build.hasPic = true → s.sprIndex a k = 0x4800 →
    ∃ t, exec (.mtspr a b k) s = .next t ∧ Keeps { picmr := true } s t ∧ GoesOn s t ∧
      ∀ j, j < 32 → t.picmr.getLsbD j = if j < 2 then true else decide (j < s.build.picInts) && (s.reg b).getLsbD j

/-- SPR numbers that are refused in supervisor mode: NPC and PPC; every other number outside the modelled set; the PIC's where there is no
PIC; and, for a write, the read-only ones. -/
def Obligations.SprRefusals : Prop :=
  ∀ (s : State) (d a b : Reg) (k : Half), s.supervisor = true →
    if s.sprIndex a k = 0x0010 ∨ s.sprIndex a k = 0x0012 then
      exec (.mfspr d a k) s = .refused .npcPpcNotModelled ∧ exec (.mtspr a b k) s = .refused .npcPpcNotModelled
    else if s.sprIndex a k ∈ ([0x0000, 0x0001, 0x0002] : List (BitVec 16)) then exec (.mtspr a b k) s = .refused .sprReadOnly
    else if s.sprIndex a k ∉ ([0x0011, 0x0014, 0x0020, 0x0030, 0x0040, 0x2801, 0x2802] ++
        (if s.build.hasPic then [0x4800, 0x4802] else []) : List (BitVec 16)) then
      exec (.mfspr d a k) s = .refused .sprNotModelled ∧ exec (.mtspr a b k) s = .refused .sprNotModelled
    else True

/-! ## Floating point, no-operations -/

/-- lf.madd.s where it is implemented and Floating Point is not due: rD takes the result of `FMADD32` of rA, rB, the old rD and FPCSR[RM],
FPCSR[11:3] its flags; nothing else changes. -/
def Obligations.MultiplyAddSingle : Prop :=
  ∀ (s : State) (d a b : Reg), s.build.implementsMaddS = true →
    let r := Config.fmadd32 (s.reg a) (s.reg b) (s.reg d) (s.fpcsr.extractLsb' 1 2)
    Writable d r.1 → (s.fpcsr.getLsbD 0 = false ∨ r.2 = 0) →
      ∃ t, exec (.maddS d a b) s = .next t ∧ t.reg d = r.1 ∧ t.fpcsr.extractLsb' 3 9 = r.2 ∧
        t.fpcsr.extractLsb' 0 3 = s.fpcsr.extractLsb' 0 3 ∧ Keeps { regs := [d], fpcsr := true } s t ∧ GoesOn s t

/-- lf.madd.s where it is implemented and FPCSR[FPEE] = 1: the result and the flags are written, in a state `u`; with no flag set the
instruction then goes on; with one set Floating Point is taken at the same place, with EPCR0 at the next instruction, and refused in a delay
slot. -/
def Obligations.MultiplyAddSingleRaises : Prop :=
  ∀ (s : State) (d a b : Reg), s.build.implementsMaddS = true →
    let r := Config.fmadd32 (s.reg a) (s.reg b) (s.reg d) (s.fpcsr.extractLsb' 1 2)
    Writable d r.1 → s.fpcsr.getLsbD 0 = true →
      if r.2 ≠ 0 ∧ s.delay ≠ none then exec (.maddS d a b) s = .refused .nextInstructionExceptionInDelaySlot
      else ∃ u t, exec (.maddS d a b) s = .next t ∧ u.reg d = r.1 ∧ u.fpcsr.extractLsb' 3 9 = r.2 ∧
        u.pc = s.pc ∧ u.delay = s.delay ∧ Keeps { regs := [d], fpcsr := true } s u ∧
        if r.2 = 0 then GoesOn s t ∧ Keeps {} u t else Entered u 0x00000D00 (s.pc + 4) t ∧ TrapKeeps u t

/-- l.nop, whatever K is, and the three synchronisation instructions only go on. -/
def Obligations.NoOperations : Prop :=
  ∀ (s : State) (k : Half), ∀ ins ∈ ([.nop k, .msync, .psync, .csync] : List Instr),
    ∃ t, exec ins s = .next t ∧ Keeps {} s t ∧ GoesOn s t

/-! ## r0, reset, invariants -/

/-- An instruction that would write a non-zero value to r0 is refused: every form with a D field, with the condition on the operands under
which its result is not zero (l.ff1, l.fl1 and the rotates give zero exactly for rA = 0), the divisions with an open result, l.mfspr of each
register in supervisor mode, lf.madd.s where it is implemented, and the six loads from memory. Bit 5 of L plays no part (log 32). -/
def Obligations.NonZeroWriteToR0Refused : Prop :=
  ∀ (s : State) (a b : Reg) (i k : Half) (l : BitVec 6),
    let ea := s.effective a i
    let fp := Config.fmadd32 (s.reg a) (s.reg b) (s.reg 0) (s.fpcsr.extractLsb' 1 2)
    let carry := (BitVec.ofBool (s.srBit SR.CY)).setWidth 32
    let quotient := BitVec.ofInt 32 ((if ((s.reg a).toInt < 0) ↔ ((s.reg b).toInt < 0) then 1 else -1) *
      (((s.reg a).toInt.natAbs / (s.reg b).toInt.natAbs : Nat) : Int))
    let overflow := s.reg a = 0x80000000 ∧ s.reg b = 0xFFFFFFFF
    (∀ p ∈ ([(.add 0 a b, s.reg a + s.reg b ≠ 0), (.addc 0 a b, s.reg a + s.reg b + carry ≠ 0),
      (.addi 0 a i, s.reg a + i.signExtend 32 ≠ 0), (.addic 0 a i, s.reg a + i.signExtend 32 + carry ≠ 0),
      (.sub 0 a b, s.reg a - s.reg b ≠ 0), (.mul 0 a b, s.reg a * s.reg b ≠ 0), (.muli 0 a i, s.reg a * i.signExtend 32 ≠ 0),
      (.mulu 0 a b, s.reg a * s.reg b ≠ 0),
      (.div 0 a b, s.reg b = 0 ∨ overflow ∨ quotient ≠ 0), (.divu 0 a b, s.reg b = 0 ∨ (s.reg a).toNat / (s.reg b).toNat ≠ 0),
      (.ff1 0 a, s.reg a ≠ 0), (.fl1 0 a, s.reg a ≠ 0),
      (.and 0 a b, s.reg a &&& s.reg b ≠ 0), (.or 0 a b, s.reg a ||| s.reg b ≠ 0), (.xor 0 a b, s.reg a ^^^ s.reg b ≠ 0),
      (.andi 0 a k, s.reg a &&& k.setWidth 32 ≠ 0), (.ori 0 a k, s.reg a ||| k.setWidth 32 ≠ 0),
      (.xori 0 a k, s.reg a ^^^ (if s.build.xoriSignExtend then k.signExtend 32 else k.setWidth 32) ≠ 0),
      (.movhi 0 k, k ≠ 0), (.cmov 0 a b, (if s.srBit SR.F then s.reg a else s.reg b) ≠ 0),
      (.exths 0 a, (s.reg a).setWidth 16 ≠ 0), (.exthz 0 a, (s.reg a).setWidth 16 ≠ 0),
      (.extbs 0 a, (s.reg a).setWidth 8 ≠ 0), (.extbz 0 a, (s.reg a).setWidth 8 ≠ 0), (.extws 0 a, s.reg a ≠ 0), (.extwz 0 a, s.reg a ≠ 0),
      (.sll 0 a b, BitVec.ofNat 32 ((s.reg a).toNat * 2 ^ ((s.reg b).toNat % 32)) ≠ 0),
      (.srl 0 a b, (s.reg a).toNat / 2 ^ ((s.reg b).toNat % 32) ≠ 0), (.sra 0 a b, (s.reg a).toInt / 2 ^ ((s.reg b).toNat % 32) ≠ 0),
      (.ror 0 a b, s.reg a ≠ 0), (.slli 0 a l, BitVec.ofNat 32 ((s.reg a).toNat * 2 ^ (l.toNat % 32)) ≠ 0),
      (.srli 0 a l, (s.reg a).toNat / 2 ^ (l.toNat % 32) ≠ 0), (.srai 0 a l, (s.reg a).toInt / 2 ^ (l.toNat % 32) ≠ 0),
      (.rori 0 a l, s.reg a ≠ 0), (.macrc 0, s.maclo ≠ 0)] : List (Instr × Prop)), p.2 → exec p.1 s = .refused .nonZeroWriteToR0) ∧
    (s.build.implementsMaddS = true → fp.1 = 0 ∨ exec (.maddS 0 a b) s = .refused .nonZeroWriteToR0) ∧
    (∀ p ∈ ([(.lwz 0 a i, 4, s.byteAt ea ++ s.byteAt (ea + 1) ++ s.byteAt (ea + 2) ++ s.byteAt (ea + 3)),
        (.lws 0 a i, 4, s.byteAt ea ++ s.byteAt (ea + 1) ++ s.byteAt (ea + 2) ++ s.byteAt (ea + 3)),
        (.lhz 0 a i, 2, (s.byteAt ea ++ s.byteAt (ea + 1)).setWidth 32), (.lhs 0 a i, 2, (s.byteAt ea ++ s.byteAt (ea + 1)).signExtend 32),
        (.lbz 0 a i, 1, (s.byteAt ea).setWidth 32), (.lbs 0 a i, 1, (s.byteAt ea).signExtend 32)] : List (Instr × Nat × Word)),
      ea.toNat % p.2.1 = 0 → (∀ x ∈ span ea p.2.1, s.kindAt x = some .memory) → p.2.2 ≠ 0 → exec p.1 s = .refused .nonZeroWriteToR0) ∧
    (∀ p ∈ ([(0x0000, s.build.vr), (0x0001, if s.build.hasPic then s.build.upr ||| 0x00000200 else s.build.upr &&& 0xFFFFFDFF),
        (0x0002, s.build.cpucfgr), (0x0011, s.sr ||| 0x00008000), (0x0014, s.fpcsr.setWidth 32), (0x0020, s.epcr0), (0x0030, s.eear0),
        (0x0040, s.esr0), (0x2801, s.maclo), (0x2802, s.machi)] ++
        (if s.build.hasPic then [(0x4800, s.picmr), (0x4802, s.picsr)] else []) : List (BitVec 16 × Word)),
      s.supervisor = true → s.sprIndex a k = p.1 → p.2 ≠ 0 → exec (.mfspr 0 a k) s = .refused .nonZeroWriteToR0)

/-- No step of the machine puts a non-zero value into r0. -/
def Obligations.R0HoldsNoNewNonZero : Prop :=
  ∀ s t : State, step s = .next t → t.reg 0 = s.reg 0 ∨ t.reg 0 = 0

/-- The state after reset, where the spec gives a value: the pc, no pending target, SR, PICMR, PICSR, FPCSR; it is supervisor mode, not in a
delay slot. -/
def Obligations.ResetState : Prop :=
  State.reset.pc = 0x00000100 ∧ State.reset.delay = none ∧ State.reset.readSR = 0x00008001 ∧ State.reset.picmr = 0x00000003 ∧
  State.reset.picsr = 0 ∧ State.reset.fpcsr = 0 ∧ State.reset.supervisor = true ∧ State.reset.inSlot = false

/-- The invariant holds at reset. -/
def Obligations.ResetMeetsInvariant : Prop := State.reset.Inv

/-- Every step keeps the invariant: canonical memory and stored addresses, an aligned pc and pending target, no unmodelled SR field, FO = 1,
no IUM bit of an absent line. The platform and the build are never changed. -/
def Obligations.StepKeepsInvariant : Prop :=
  ∀ s t : State, step s = .next t → s.Inv → t.Inv ∧ SamePlatform s t
end

