-- ==== Sys2Proof/Laws/Decode.lean ====
section
/-! SUPPORT. Decoding and encoding: the fields of a word put together from operands, the rows of the table are disjoint, and a word that
selects a row decodes to that row's instruction. -/

namespace Sys2Proof

/-! ## Fields of a union -/

@[simp] theorem fieldD_or (x y : Word) : fieldD (x ||| y) = fieldD x ||| fieldD y := BitVec.extractLsb'_or
@[simp] theorem fieldA_or (x y : Word) : fieldA (x ||| y) = fieldA x ||| fieldA y := BitVec.extractLsb'_or
@[simp] theorem fieldB_or (x y : Word) : fieldB (x ||| y) = fieldB x ||| fieldB y := BitVec.extractLsb'_or
@[simp] theorem fieldImm_or (x y : Word) : fieldImm (x ||| y) = fieldImm x ||| fieldImm y := BitVec.extractLsb'_or
@[simp] theorem fieldN_or (x y : Word) : fieldN (x ||| y) = fieldN x ||| fieldN y := BitVec.extractLsb'_or
@[simp] theorem fieldL_or (x y : Word) : fieldL (x ||| y) = fieldL x ||| fieldL y := BitVec.extractLsb'_or
@[simp] theorem fieldSplit_or (x y : Word) : fieldSplit (x ||| y) = fieldSplit x ||| fieldSplit y := by
  simp only [fieldSplit, BitVec.extractLsb'_or]
  ext i hi
  simp only [BitVec.getElem_append, BitVec.getElem_or]
  split <;> rfl

/-! ## A field put in its place, and the other fields there -/

@[simp] theorem fieldD_putD (d : Reg) : fieldD (putD d) = d := by
  ext j hj
  have e1 : decide (21 + j < 32) = true := decide_eq_true (by omega)
  have e2 : decide (j < 32) = true := decide_eq_true (by omega)
  simp [fieldD, putD, e1, e2, BitVec.getLsbD_eq_getElem hj]
@[simp] theorem fieldD_putA (a : Reg) : fieldD (putA a) = 0 := by
  ext j hj; simp [fieldD, putA]; intros; exact BitVec.getLsbD_of_ge _ _ (by omega)
@[simp] theorem fieldD_putB (b : Reg) : fieldD (putB b) = 0 := by
  ext j hj; simp [fieldD, putB]; intros; exact BitVec.getLsbD_of_ge _ _ (by omega)
@[simp] theorem fieldD_putImm (i : Half) : fieldD (putImm i) = 0 := by
  ext j hj; simp [fieldD, putImm]; intros; exact BitVec.getLsbD_of_ge _ _ (by omega)
@[simp] theorem fieldD_putL (l : BitVec 6) : fieldD (putL l) = 0 := by
  ext j hj; simp [fieldD, putL]; intros; exact BitVec.getLsbD_of_ge _ _ (by omega)
@[simp] theorem fieldA_putD (d : Reg) : fieldA (putD d) = 0 := by
  ext j hj; simp [fieldA, putD]; omega
@[simp] theorem fieldA_putA (a : Reg) : fieldA (putA a) = a := by
  ext j hj
  have e1 : decide (16 + j < 32) = true := decide_eq_true (by omega)
  have e2 : decide (j < 32) = true := decide_eq_true (by omega)
  simp [fieldA, putA, e1, e2, BitVec.getLsbD_eq_getElem hj]
@[simp] theorem fieldA_putB (b : Reg) : fieldA (putB b) = 0 := by
  ext j hj; simp [fieldA, putB]; intros; exact BitVec.getLsbD_of_ge _ _ (by omega)
@[simp] theorem fieldA_putImm (i : Half) : fieldA (putImm i) = 0 := by
  ext j hj; simp [fieldA, putImm]
@[simp] theorem fieldA_putL (l : BitVec 6) : fieldA (putL l) = 0 := by
  ext j hj; simp [fieldA, putL]; intros; exact BitVec.getLsbD_of_ge _ _ (by omega)
@[simp] theorem fieldA_putSplit (i : Half) : fieldA (putSplit i) = 0 := by
  ext j hj
  simp [fieldA, putSplit, putD]; omega
@[simp] theorem fieldB_putD (d : Reg) : fieldB (putD d) = 0 := by
  ext j hj; simp [fieldB, putD]; omega
@[simp] theorem fieldB_putA (a : Reg) : fieldB (putA a) = 0 := by
  ext j hj; simp [fieldB, putA]; omega
@[simp] theorem fieldB_putB (b : Reg) : fieldB (putB b) = b := by
  ext j hj
  have e1 : decide (11 + j < 32) = true := decide_eq_true (by omega)
  have e2 : decide (j < 32) = true := decide_eq_true (by omega)
  simp [fieldB, putB, e1, e2, BitVec.getLsbD_eq_getElem hj]
@[simp] theorem fieldB_putSplit (i : Half) : fieldB (putSplit i) = 0 := by
  ext j hj
  simp [fieldB, putSplit, putD]; omega
@[simp] theorem fieldImm_putD (d : Reg) : fieldImm (putD d) = 0 := by
  ext j hj; simp [fieldImm, putD]; omega
@[simp] theorem fieldImm_putA (a : Reg) : fieldImm (putA a) = 0 := by
  ext j hj; simp [fieldImm, putA]; omega
@[simp] theorem fieldImm_putImm (i : Half) : fieldImm (putImm i) = i := by
  ext j hj; simp [fieldImm, putImm, BitVec.getLsbD_eq_getElem hj]; omega
@[simp] theorem fieldN_putN (n : BitVec 26) : fieldN (putN n) = n := by
  ext j hj; simp [fieldN, putN, BitVec.getLsbD_eq_getElem hj]; omega
@[simp] theorem fieldL_putD (d : Reg) : fieldL (putD d) = 0 := by
  ext j hj; simp [fieldL, putD]; omega
@[simp] theorem fieldL_putA (a : Reg) : fieldL (putA a) = 0 := by
  ext j hj; simp [fieldL, putA]; omega
@[simp] theorem fieldL_putL (l : BitVec 6) : fieldL (putL l) = l := by
  ext j hj; simp [fieldL, putL, BitVec.getLsbD_eq_getElem hj]; omega
@[simp] theorem fieldSplit_putA (a : Reg) : fieldSplit (putA a) = 0 := by
  have low : (putA a).extractLsb' 0 11 = 0 := by
    ext j hj; simp [putA]; omega
  have high : (putA a).extractLsb' 21 5 = 0 := fieldD_putA a
  rw [fieldSplit, low, high]; rfl
@[simp] theorem fieldSplit_putB (b : Reg) : fieldSplit (putB b) = 0 := by
  have low : (putB b).extractLsb' 0 11 = 0 := by
    ext j hj; simp [putB]; omega
  have high : (putB b).extractLsb' 21 5 = 0 := fieldD_putB b
  rw [fieldSplit, low, high]; rfl
@[simp] theorem fieldSplit_putSplit (i : Half) : fieldSplit (putSplit i) = i := by
  have lo : (putSplit i).extractLsb' 0 11 = i.extractLsb' 0 11 := by
    ext j hj
    have e : decide (j < 32) = true := decide_eq_true (by omega)
    simp [putSplit, putD, e, hj]; intro _ h; omega
  have hi : (putSplit i).extractLsb' 21 5 = i.extractLsb' 11 5 := by
    ext j hj
    have e1 : decide (21 + j < 32) = true := decide_eq_true (by omega)
    have e2 : decide (j < 32) = true := decide_eq_true (by omega)
    have e3 : decide (21 + j < 11) = false := decide_eq_false (by omega)
    simp [putSplit, putD, e1, e2, e3, hj]
  rw [fieldSplit, lo, hi]
  apply BitVec.eq_of_getLsbD_eq
  intro j hj
  rw [BitVec.getLsbD_append]
  by_cases h : j < 11
  · simp [h]
  · have e1 : j - 11 < 5 := by omega
    have e2 : 11 + (j - 11) = j := by omega
    simp [h, e1, e2]

/-! ## Fields of a literal word -/

@[simp] theorem fieldD_ofNat (n : Nat) : fieldD (BitVec.ofNat 32 n) = BitVec.ofNat 5 ((n % 4294967296) >>> 21) := rfl
@[simp] theorem fieldA_ofNat (n : Nat) : fieldA (BitVec.ofNat 32 n) = BitVec.ofNat 5 ((n % 4294967296) >>> 16) := rfl
@[simp] theorem fieldB_ofNat (n : Nat) : fieldB (BitVec.ofNat 32 n) = BitVec.ofNat 5 ((n % 4294967296) >>> 11) := rfl
@[simp] theorem fieldImm_ofNat (n : Nat) : fieldImm (BitVec.ofNat 32 n) = BitVec.ofNat 16 ((n % 4294967296) >>> 0) := rfl
@[simp] theorem fieldN_ofNat (n : Nat) : fieldN (BitVec.ofNat 32 n) = BitVec.ofNat 26 ((n % 4294967296) >>> 0) := rfl
@[simp] theorem fieldL_ofNat (n : Nat) : fieldL (BitVec.ofNat 32 n) = BitVec.ofNat 6 ((n % 4294967296) >>> 0) := rfl
@[simp] theorem fieldSplit_ofNat (n : Nat) : fieldSplit (BitVec.ofNat 32 n) =
    BitVec.ofNat 5 ((n % 4294967296) >>> 21) ++ BitVec.ofNat 11 ((n % 4294967296) >>> 0) := rfl

/-! ## Operands stay out of the bits a row fixes or reserves -/

theorem or_and_mask (x y m : Word) : (x ||| y) &&& m = x &&& m ||| y &&& m := by
  ext i hi; simp [Bool.and_or_distrib_right]

/-- A word inside `f` has no bit in a mask that avoids `f`. -/
theorem mask_of_within {x f m : Word} (hx : x &&& f = x) (h : f &&& m = 0) : x &&& m = 0 := by
  rw [← hx, BitVec.and_assoc, h]; exact BitVec.and_zero

theorem putD_mask (d : Reg) {m : Word} (h : 0x03E00000 &&& m = 0) : putD d &&& m = 0 :=
  mask_of_within (f := 0x03E00000) (by revert d; decide) h
theorem putA_mask (a : Reg) {m : Word} (h : 0x001F0000 &&& m = 0) : putA a &&& m = 0 :=
  mask_of_within (f := 0x001F0000) (by revert a; decide) h
theorem putB_mask (b : Reg) {m : Word} (h : 0x0000F800 &&& m = 0) : putB b &&& m = 0 :=
  mask_of_within (f := 0x0000F800) (by revert b; decide) h

/-- A zero-extended value is inside the low bits of its width. -/
theorem setWidth_within {n : Nat} (v : BitVec n) : v.setWidth 32 &&& (BitVec.allOnes n).setWidth 32 = v.setWidth 32 := by
  ext i hi
  by_cases h : i < n
  · simp [h]
  · simp [BitVec.getLsbD_of_ge v i (by omega)]

theorem putImm_mask (i : Half) {m : Word} (h : 0x0000FFFF &&& m = 0) : putImm i &&& m = 0 :=
  mask_of_within (setWidth_within i) h
theorem putN_mask (n : BitVec 26) {m : Word} (h : 0x03FFFFFF &&& m = 0) : putN n &&& m = 0 :=
  mask_of_within (setWidth_within n) h
theorem putSplit_mask (i : Half) {m : Word} (h : 0x03E007FF &&& m = 0) : putSplit i &&& m = 0 := by
  have high : (0x03E00000 : Word) &&& m = 0 := by
    rw [show (0x03E00000 : Word) = 0x03E00000 &&& 0x03E007FF by decide, BitVec.and_assoc, h]; exact BitVec.and_zero
  have low : (0x000007FF : Word) &&& m = 0 := by
    rw [show (0x000007FF : Word) = 0x000007FF &&& 0x03E007FF by decide, BitVec.and_assoc, h]; exact BitVec.and_zero
  rw [putSplit, or_and_mask, putD_mask _ high, mask_of_within (setWidth_within (i.extractLsb' 0 11)) low]; rfl
/-- A shift amount whose reserved bit is clear stays out of that bit too (49_base_isa_supplement_b.md R247). -/
theorem putL_mask {l : BitVec 6} (hl : shiftAmountOk l = true) {m : Word} (h : 0x0000001F &&& m = 0) : putL l &&& m = 0 :=
  mask_of_within (f := 0x0000001F) (by revert l; decide) h

/-! ## The table -/

/-- No word selects two rows: where both rows fix a bit, some such bit differs. -/
def Row.apart (r q : Row) : Bool := r.value &&& q.mask != q.value &&& r.mask

theorem table_apart : table.Pairwise fun r q => r.apart q = true := by decide +kernel

theorem apart_selects {r q : Row} {w : Word} (h : r.apart q = true) (hr : r.selects w = true) : q.selects w = false := by
  by_contra hq
  simp only [Row.selects, beq_iff_eq, Bool.not_eq_false] at hr hq
  simp only [Row.apart, bne_iff_ne, ne_eq] at h
  apply h
  rw [← hr, ← hq, BitVec.and_assoc, BitVec.and_assoc, BitVec.and_comm r.mask]

/-- In a list of rows of which no two select one word, the first that selects a word is the one that does. -/
theorem find_selects {l : List Row} (hl : l.Pairwise fun r q => r.apart q = true) {r : Row} (hr : r ∈ l) {w : Word}
    (hs : r.selects w = true) : l.find? (·.selects w) = some r := by
  induction l with
  | nil => cases hr
  | cons q rest ih =>
    rw [List.pairwise_cons] at hl
    rcases List.mem_cons.mp hr with rfl | hr
    · simp [hs]
    · have : q.selects w = false := by
        by_contra hq
        have := apart_selects (hl.1 r hr) (by simpa using hq)
        rw [hs] at this; cases this
      rw [List.find?_cons, this]
      exact ih hl.2 hr

/-- A word that selects a row of the table and has no reserved bit set decodes to that row's instruction. -/
theorem decodeWord_of_row {r : Row} (hr : r ∈ table) {w : Word} (hs : r.selects w = true) (h0 : w &&& r.reserved = 0) :
    decodeWord w = .ok (r.build w) := by
  simp only [decodeWord, find_selects table_apart hr hs, if_pos h0]

/-- A word that selects a row of the table and has a reserved bit set is refused (30_encoding.md R77). -/
theorem decodeWord_reserved {r : Row} (hr : r ∈ table) {w : Word} (hs : r.selects w = true) (h0 : w &&& r.reserved ≠ 0) :
    decodeWord w = .error .reservedBitsSet := by
  simp only [decodeWord, find_selects table_apart hr hs, if_neg h0]

/-- A word that decodes selects a row of the table, has none of its reserved bits set, and decodes to that row's instruction. -/
theorem row_of_decodeWord {w : Word} {i : Instr} (h : decodeWord w = .ok i) :
    ∃ r ∈ table, r.selects w = true ∧ w &&& r.reserved = 0 ∧ r.build w = i := by
  unfold decodeWord at h
  cases hf : table.find? (·.selects w) with
  | none => rw [hf] at h; dsimp only at h; split at h <;> cases h
  | some r =>
    rw [hf] at h; dsimp only at h
    split at h
    · next h0 =>
      injection h with h
      exact ⟨r, List.mem_of_find?_eq_some hf, by simpa using List.find?_some hf, h0, h⟩
    · cases h

/-- The bytes of a word read back as the word. -/
theorem wordOfBytes_bytesOfWord (w : Word) :
    wordOfBytes (w.extractLsb' 24 8) (w.extractLsb' 16 8) (w.extractLsb' 8 8) (w.extractLsb' 0 8) = w := by
  unfold wordOfBytes
  apply BitVec.eq_of_getLsbD_eq
  intro j hj
  simp only [BitVec.getLsbD_append, BitVec.getLsbD_extractLsb']
  by_cases h0 : j < 8
  · simp [h0]
  · by_cases h1 : j < 16
    · have e : 8 + (j - 8) = j := by omega
      have e' : j - 8 < 8 := by omega
      simp [h0, e, e']
    · by_cases h2 : j < 24
      · have e : 16 + (j - 8 - 8) = j := by omega
        have e' : j - 8 - 8 < 8 := by omega
        have e'' : ¬j - 8 < 8 := by omega
        simp [h0, e, e', e'']
      · have e : 24 + (j - 8 - 8 - 8) = j := by omega
        have e' : j - 8 - 8 - 8 < 8 := by omega
        have e'' : ¬j - 8 < 8 := by omega
        have e3 : ¬j - 8 - 8 < 8 := by omega
        simp [h0, e, e', e'', e3]

theorem decodeBytes_bytesOfWord (w : Word) (rest : List Byte) :
    decodeBytes (bytesOfWord w ++ rest) = (decodeWord w).map (·, rest) := by
  simp only [bytesOfWord, List.cons_append, List.nil_append, decodeBytes, wordOfBytes_bytesOfWord]

/-! ## A word put together from its fields -/

/-- `n` bits of a word at `k`, put back in their place, are the word's bits there. -/
theorem put_extract (w : Word) (k n : Nat) :
    (w.extractLsb' k n).setWidth 32 <<< k = w &&& (BitVec.allOnes n).setWidth 32 <<< k := by
  ext j hj
  simp only [BitVec.getElem_shiftLeft, BitVec.getElem_and, BitVec.getElem_setWidth, BitVec.getLsbD_extractLsb', BitVec.getLsbD_allOnes]
  by_cases h : j < k
  · simp [h]
  · have e : k + (j - k) = j := by omega
    simp only [h, decide_false, Bool.not_false, Bool.true_and, e, BitVec.getLsbD_eq_getElem hj]
    exact Bool.and_comm _ _

theorem put_extract_low (w : Word) (n : Nat) : (w.extractLsb' 0 n).setWidth 32 = w &&& (BitVec.allOnes n).setWidth 32 := by
  have h := put_extract w 0 n
  rwa [BitVec.shiftLeft_zero, BitVec.shiftLeft_zero] at h

theorem putD_fieldD (w : Word) : putD (fieldD w) = w &&& 0x03E00000 := put_extract w 21 5
theorem putA_fieldA (w : Word) : putA (fieldA w) = w &&& 0x001F0000 := put_extract w 16 5
theorem putB_fieldB (w : Word) : putB (fieldB w) = w &&& 0x0000F800 := put_extract w 11 5
theorem putImm_fieldImm (w : Word) : putImm (fieldImm w) = w &&& 0x0000FFFF := put_extract_low w 16
theorem putN_fieldN (w : Word) : putN (fieldN w) = w &&& 0x03FFFFFF := put_extract_low w 26
theorem putL_fieldL (w : Word) : putL (fieldL w) = w &&& 0x0000003F := put_extract_low w 6

theorem putSplit_fieldSplit (w : Word) : putSplit (fieldSplit w) = w &&& 0x03E007FF := by
  have h1 : (fieldSplit w).extractLsb' 11 5 = fieldD w := by
    apply BitVec.eq_of_getLsbD_eq; intro j hj
    rw [fieldSplit, BitVec.getLsbD_extractLsb', BitVec.getLsbD_append, if_neg (by omega), fieldD, Nat.add_sub_cancel_left]
    simp only [hj, decide_true, Bool.true_and]
  have h2 : (fieldSplit w).extractLsb' 0 11 = w.extractLsb' 0 11 := by
    apply BitVec.eq_of_getLsbD_eq; intro j hj
    rw [fieldSplit, BitVec.getLsbD_extractLsb', BitVec.getLsbD_append, if_pos (by omega), Nat.zero_add]
    simp [hj]
  have h3 : (w.extractLsb' 0 11).setWidth 32 = w &&& 0x000007FF := put_extract_low w 11
  rw [putSplit, h1, h2, h3, putD_fieldD, ← BitVec.and_or_distrib_left]; rfl

/-- A word is its fixed bits together with its operand bits `f`, when the row's reserved bits are clear and the three make up the word. -/
theorem word_of_row {w v m res f : Word} (hv : w &&& m = v) (hr : w &&& res = 0) (h : m ||| res ||| f = 0xFFFFFFFF) : v ||| w &&& f = w := by
  have h' : w &&& (m ||| res ||| f) = w := by
    rw [h]; exact BitVec.and_allOnes
  rw [BitVec.and_or_distrib_left, BitVec.and_or_distrib_left, hv, hr] at h'
  exact (congrArg (· ||| w &&& f) (show v ||| 0#32 = v from BitVec.or_zero)).symm.trans h'

end Sys2Proof
end

