-- ==== Sys2Proof/Laws/State.lean ====
section
/-! SUPPORT. One lemma per field per update of the state, and the reads over them, so that no later proof unfolds a record update. -/

namespace Sys2Proof.Machine

/-! ## Fields an update does not touch -/

/-! ### setReg -/

@[simp] theorem setReg_pc (s : State) (r : Reg) (v : Word) : (s.setReg r v).pc = s.pc := rfl
@[simp] theorem setReg_delay (s : State) (r : Reg) (v : Word) : (s.setReg r v).delay = s.delay := rfl
@[simp] theorem setReg_sr (s : State) (r : Reg) (v : Word) : (s.setReg r v).sr = s.sr := rfl
@[simp] theorem setReg_epcr0 (s : State) (r : Reg) (v : Word) : (s.setReg r v).epcr0 = s.epcr0 := rfl
@[simp] theorem setReg_eear0 (s : State) (r : Reg) (v : Word) : (s.setReg r v).eear0 = s.eear0 := rfl
@[simp] theorem setReg_esr0 (s : State) (r : Reg) (v : Word) : (s.setReg r v).esr0 = s.esr0 := rfl
@[simp] theorem setReg_machi (s : State) (r : Reg) (v : Word) : (s.setReg r v).machi = s.machi := rfl
@[simp] theorem setReg_maclo (s : State) (r : Reg) (v : Word) : (s.setReg r v).maclo = s.maclo := rfl
@[simp] theorem setReg_fpcsr (s : State) (r : Reg) (v : Word) : (s.setReg r v).fpcsr = s.fpcsr := rfl
@[simp] theorem setReg_ium (s : State) (r : Reg) (v : Word) : (s.setReg r v).ium = s.ium := rfl
@[simp] theorem setReg_picsr (s : State) (r : Reg) (v : Word) : (s.setReg r v).picsr = s.picsr := rfl
@[simp] theorem setReg_mem (s : State) (r : Reg) (v : Word) : (s.setReg r v).mem = s.mem := rfl
@[simp] theorem setReg_stored (s : State) (r : Reg) (v : Word) : (s.setReg r v).stored = s.stored := rfl
@[simp] theorem setReg_memMap (s : State) (r : Reg) (v : Word) : (s.setReg r v).memMap = s.memMap := rfl
@[simp] theorem setReg_irq (s : State) (r : Reg) (v : Word) : (s.setReg r v).irq = s.irq := rfl
@[simp] theorem setReg_inputs (s : State) (r : Reg) (v : Word) : (s.setReg r v).inputs = s.inputs := rfl
@[simp] theorem setReg_build (s : State) (r : Reg) (v : Word) : (s.setReg r v).build = s.build := rfl
@[simp] theorem setReg_draws (s : State) (r : Reg) (v : Word) : (s.setReg r v).draws = s.draws := rfl

/-! ### setSrBit -/

@[simp] theorem setSrBit_regs (s : State) (i : Nat) (b : Bool) : (s.setSrBit i b).regs = s.regs := rfl
@[simp] theorem setSrBit_pc (s : State) (i : Nat) (b : Bool) : (s.setSrBit i b).pc = s.pc := rfl
@[simp] theorem setSrBit_delay (s : State) (i : Nat) (b : Bool) : (s.setSrBit i b).delay = s.delay := rfl
@[simp] theorem setSrBit_epcr0 (s : State) (i : Nat) (b : Bool) : (s.setSrBit i b).epcr0 = s.epcr0 := rfl
@[simp] theorem setSrBit_eear0 (s : State) (i : Nat) (b : Bool) : (s.setSrBit i b).eear0 = s.eear0 := rfl
@[simp] theorem setSrBit_esr0 (s : State) (i : Nat) (b : Bool) : (s.setSrBit i b).esr0 = s.esr0 := rfl
@[simp] theorem setSrBit_machi (s : State) (i : Nat) (b : Bool) : (s.setSrBit i b).machi = s.machi := rfl
@[simp] theorem setSrBit_maclo (s : State) (i : Nat) (b : Bool) : (s.setSrBit i b).maclo = s.maclo := rfl
@[simp] theorem setSrBit_fpcsr (s : State) (i : Nat) (b : Bool) : (s.setSrBit i b).fpcsr = s.fpcsr := rfl
@[simp] theorem setSrBit_ium (s : State) (i : Nat) (b : Bool) : (s.setSrBit i b).ium = s.ium := rfl
@[simp] theorem setSrBit_picsr (s : State) (i : Nat) (b : Bool) : (s.setSrBit i b).picsr = s.picsr := rfl
@[simp] theorem setSrBit_mem (s : State) (i : Nat) (b : Bool) : (s.setSrBit i b).mem = s.mem := rfl
@[simp] theorem setSrBit_stored (s : State) (i : Nat) (b : Bool) : (s.setSrBit i b).stored = s.stored := rfl
@[simp] theorem setSrBit_memMap (s : State) (i : Nat) (b : Bool) : (s.setSrBit i b).memMap = s.memMap := rfl
@[simp] theorem setSrBit_irq (s : State) (i : Nat) (b : Bool) : (s.setSrBit i b).irq = s.irq := rfl
@[simp] theorem setSrBit_inputs (s : State) (i : Nat) (b : Bool) : (s.setSrBit i b).inputs = s.inputs := rfl
@[simp] theorem setSrBit_build (s : State) (i : Nat) (b : Bool) : (s.setSrBit i b).build = s.build := rfl
@[simp] theorem setSrBit_draws (s : State) (i : Nat) (b : Bool) : (s.setSrBit i b).draws = s.draws := rfl

/-! ### setCyOv -/

@[simp] theorem setCyOv_regs (s : State) (cy ov : Bool) : (s.setCyOv cy ov).regs = s.regs := rfl
@[simp] theorem setCyOv_pc (s : State) (cy ov : Bool) : (s.setCyOv cy ov).pc = s.pc := rfl
@[simp] theorem setCyOv_delay (s : State) (cy ov : Bool) : (s.setCyOv cy ov).delay = s.delay := rfl
@[simp] theorem setCyOv_epcr0 (s : State) (cy ov : Bool) : (s.setCyOv cy ov).epcr0 = s.epcr0 := rfl
@[simp] theorem setCyOv_eear0 (s : State) (cy ov : Bool) : (s.setCyOv cy ov).eear0 = s.eear0 := rfl
@[simp] theorem setCyOv_esr0 (s : State) (cy ov : Bool) : (s.setCyOv cy ov).esr0 = s.esr0 := rfl
@[simp] theorem setCyOv_machi (s : State) (cy ov : Bool) : (s.setCyOv cy ov).machi = s.machi := rfl
@[simp] theorem setCyOv_maclo (s : State) (cy ov : Bool) : (s.setCyOv cy ov).maclo = s.maclo := rfl
@[simp] theorem setCyOv_fpcsr (s : State) (cy ov : Bool) : (s.setCyOv cy ov).fpcsr = s.fpcsr := rfl
@[simp] theorem setCyOv_ium (s : State) (cy ov : Bool) : (s.setCyOv cy ov).ium = s.ium := rfl
@[simp] theorem setCyOv_picsr (s : State) (cy ov : Bool) : (s.setCyOv cy ov).picsr = s.picsr := rfl
@[simp] theorem setCyOv_mem (s : State) (cy ov : Bool) : (s.setCyOv cy ov).mem = s.mem := rfl
@[simp] theorem setCyOv_stored (s : State) (cy ov : Bool) : (s.setCyOv cy ov).stored = s.stored := rfl
@[simp] theorem setCyOv_memMap (s : State) (cy ov : Bool) : (s.setCyOv cy ov).memMap = s.memMap := rfl
@[simp] theorem setCyOv_irq (s : State) (cy ov : Bool) : (s.setCyOv cy ov).irq = s.irq := rfl
@[simp] theorem setCyOv_inputs (s : State) (cy ov : Bool) : (s.setCyOv cy ov).inputs = s.inputs := rfl
@[simp] theorem setCyOv_build (s : State) (cy ov : Bool) : (s.setCyOv cy ov).build = s.build := rfl
@[simp] theorem setCyOv_draws (s : State) (cy ov : Bool) : (s.setCyOv cy ov).draws = s.draws := rfl

/-! ### advance -/

@[simp] theorem advance_regs (s : State) : s.advance.regs = s.regs := by unfold State.advance; split <;> rfl
@[simp] theorem advance_sr (s : State) : s.advance.sr = s.sr := by unfold State.advance; split <;> rfl
@[simp] theorem advance_epcr0 (s : State) : s.advance.epcr0 = s.epcr0 := by unfold State.advance; split <;> rfl
@[simp] theorem advance_eear0 (s : State) : s.advance.eear0 = s.eear0 := by unfold State.advance; split <;> rfl
@[simp] theorem advance_esr0 (s : State) : s.advance.esr0 = s.esr0 := by unfold State.advance; split <;> rfl
@[simp] theorem advance_machi (s : State) : s.advance.machi = s.machi := by unfold State.advance; split <;> rfl
@[simp] theorem advance_maclo (s : State) : s.advance.maclo = s.maclo := by unfold State.advance; split <;> rfl
@[simp] theorem advance_fpcsr (s : State) : s.advance.fpcsr = s.fpcsr := by unfold State.advance; split <;> rfl
@[simp] theorem advance_ium (s : State) : s.advance.ium = s.ium := by unfold State.advance; split <;> rfl
@[simp] theorem advance_picsr (s : State) : s.advance.picsr = s.picsr := by unfold State.advance; split <;> rfl
@[simp] theorem advance_mem (s : State) : s.advance.mem = s.mem := by unfold State.advance; split <;> rfl
@[simp] theorem advance_stored (s : State) : s.advance.stored = s.stored := by unfold State.advance; split <;> rfl
@[simp] theorem advance_memMap (s : State) : s.advance.memMap = s.memMap := by unfold State.advance; split <;> rfl
@[simp] theorem advance_irq (s : State) : s.advance.irq = s.irq := by unfold State.advance; split <;> rfl
@[simp] theorem advance_inputs (s : State) : s.advance.inputs = s.inputs := by unfold State.advance; split <;> rfl
@[simp] theorem advance_build (s : State) : s.advance.build = s.build := by unfold State.advance; split <;> rfl
@[simp] theorem advance_draws (s : State) : s.advance.draws = s.draws := by unfold State.advance; split <;> rfl

/-! ### jump -/

@[simp] theorem jump_regs (s : State) (t : Word) : (s.jump t).regs = s.regs := rfl
@[simp] theorem jump_sr (s : State) (t : Word) : (s.jump t).sr = s.sr := rfl
@[simp] theorem jump_epcr0 (s : State) (t : Word) : (s.jump t).epcr0 = s.epcr0 := rfl
@[simp] theorem jump_eear0 (s : State) (t : Word) : (s.jump t).eear0 = s.eear0 := rfl
@[simp] theorem jump_esr0 (s : State) (t : Word) : (s.jump t).esr0 = s.esr0 := rfl
@[simp] theorem jump_machi (s : State) (t : Word) : (s.jump t).machi = s.machi := rfl
@[simp] theorem jump_maclo (s : State) (t : Word) : (s.jump t).maclo = s.maclo := rfl
@[simp] theorem jump_fpcsr (s : State) (t : Word) : (s.jump t).fpcsr = s.fpcsr := rfl
@[simp] theorem jump_ium (s : State) (t : Word) : (s.jump t).ium = s.ium := rfl
@[simp] theorem jump_picsr (s : State) (t : Word) : (s.jump t).picsr = s.picsr := rfl
@[simp] theorem jump_mem (s : State) (t : Word) : (s.jump t).mem = s.mem := rfl
@[simp] theorem jump_stored (s : State) (t : Word) : (s.jump t).stored = s.stored := rfl
@[simp] theorem jump_memMap (s : State) (t : Word) : (s.jump t).memMap = s.memMap := rfl
@[simp] theorem jump_irq (s : State) (t : Word) : (s.jump t).irq = s.irq := rfl
@[simp] theorem jump_inputs (s : State) (t : Word) : (s.jump t).inputs = s.inputs := rfl
@[simp] theorem jump_build (s : State) (t : Word) : (s.jump t).build = s.build := rfl
@[simp] theorem jump_draws (s : State) (t : Word) : (s.jump t).draws = s.draws := rfl

/-! ### setAcc -/

@[simp] theorem setAcc_regs (s : State) (v : BitVec 64) : (s.setAcc v).regs = s.regs := rfl
@[simp] theorem setAcc_pc (s : State) (v : BitVec 64) : (s.setAcc v).pc = s.pc := rfl
@[simp] theorem setAcc_delay (s : State) (v : BitVec 64) : (s.setAcc v).delay = s.delay := rfl
@[simp] theorem setAcc_sr (s : State) (v : BitVec 64) : (s.setAcc v).sr = s.sr := rfl
@[simp] theorem setAcc_epcr0 (s : State) (v : BitVec 64) : (s.setAcc v).epcr0 = s.epcr0 := rfl
@[simp] theorem setAcc_eear0 (s : State) (v : BitVec 64) : (s.setAcc v).eear0 = s.eear0 := rfl
@[simp] theorem setAcc_esr0 (s : State) (v : BitVec 64) : (s.setAcc v).esr0 = s.esr0 := rfl
@[simp] theorem setAcc_fpcsr (s : State) (v : BitVec 64) : (s.setAcc v).fpcsr = s.fpcsr := rfl
@[simp] theorem setAcc_ium (s : State) (v : BitVec 64) : (s.setAcc v).ium = s.ium := rfl
@[simp] theorem setAcc_picsr (s : State) (v : BitVec 64) : (s.setAcc v).picsr = s.picsr := rfl
@[simp] theorem setAcc_mem (s : State) (v : BitVec 64) : (s.setAcc v).mem = s.mem := rfl
@[simp] theorem setAcc_stored (s : State) (v : BitVec 64) : (s.setAcc v).stored = s.stored := rfl
@[simp] theorem setAcc_memMap (s : State) (v : BitVec 64) : (s.setAcc v).memMap = s.memMap := rfl
@[simp] theorem setAcc_irq (s : State) (v : BitVec 64) : (s.setAcc v).irq = s.irq := rfl
@[simp] theorem setAcc_inputs (s : State) (v : BitVec 64) : (s.setAcc v).inputs = s.inputs := rfl
@[simp] theorem setAcc_build (s : State) (v : BitVec 64) : (s.setAcc v).build = s.build := rfl
@[simp] theorem setAcc_draws (s : State) (v : BitVec 64) : (s.setAcc v).draws = s.draws := rfl

/-! ### setFpFlags -/

@[simp] theorem setFpFlags_regs (s : State) (f : BitVec 9) : (s.setFpFlags f).regs = s.regs := rfl
@[simp] theorem setFpFlags_pc (s : State) (f : BitVec 9) : (s.setFpFlags f).pc = s.pc := rfl
@[simp] theorem setFpFlags_delay (s : State) (f : BitVec 9) : (s.setFpFlags f).delay = s.delay := rfl
@[simp] theorem setFpFlags_sr (s : State) (f : BitVec 9) : (s.setFpFlags f).sr = s.sr := rfl
@[simp] theorem setFpFlags_epcr0 (s : State) (f : BitVec 9) : (s.setFpFlags f).epcr0 = s.epcr0 := rfl
@[simp] theorem setFpFlags_eear0 (s : State) (f : BitVec 9) : (s.setFpFlags f).eear0 = s.eear0 := rfl
@[simp] theorem setFpFlags_esr0 (s : State) (f : BitVec 9) : (s.setFpFlags f).esr0 = s.esr0 := rfl
@[simp] theorem setFpFlags_machi (s : State) (f : BitVec 9) : (s.setFpFlags f).machi = s.machi := rfl
@[simp] theorem setFpFlags_maclo (s : State) (f : BitVec 9) : (s.setFpFlags f).maclo = s.maclo := rfl
@[simp] theorem setFpFlags_ium (s : State) (f : BitVec 9) : (s.setFpFlags f).ium = s.ium := rfl
@[simp] theorem setFpFlags_picsr (s : State) (f : BitVec 9) : (s.setFpFlags f).picsr = s.picsr := rfl
@[simp] theorem setFpFlags_mem (s : State) (f : BitVec 9) : (s.setFpFlags f).mem = s.mem := rfl
@[simp] theorem setFpFlags_stored (s : State) (f : BitVec 9) : (s.setFpFlags f).stored = s.stored := rfl
@[simp] theorem setFpFlags_memMap (s : State) (f : BitVec 9) : (s.setFpFlags f).memMap = s.memMap := rfl
@[simp] theorem setFpFlags_irq (s : State) (f : BitVec 9) : (s.setFpFlags f).irq = s.irq := rfl
@[simp] theorem setFpFlags_inputs (s : State) (f : BitVec 9) : (s.setFpFlags f).inputs = s.inputs := rfl
@[simp] theorem setFpFlags_build (s : State) (f : BitVec 9) : (s.setFpFlags f).build = s.build := rfl
@[simp] theorem setFpFlags_draws (s : State) (f : BitVec 9) : (s.setFpFlags f).draws = s.draws := rfl

/-! ### setPicmr -/

@[simp] theorem setPicmr_regs (s : State) (v : Word) : (s.setPicmr v).regs = s.regs := rfl
@[simp] theorem setPicmr_pc (s : State) (v : Word) : (s.setPicmr v).pc = s.pc := rfl
@[simp] theorem setPicmr_delay (s : State) (v : Word) : (s.setPicmr v).delay = s.delay := rfl
@[simp] theorem setPicmr_sr (s : State) (v : Word) : (s.setPicmr v).sr = s.sr := rfl
@[simp] theorem setPicmr_epcr0 (s : State) (v : Word) : (s.setPicmr v).epcr0 = s.epcr0 := rfl
@[simp] theorem setPicmr_eear0 (s : State) (v : Word) : (s.setPicmr v).eear0 = s.eear0 := rfl
@[simp] theorem setPicmr_esr0 (s : State) (v : Word) : (s.setPicmr v).esr0 = s.esr0 := rfl
@[simp] theorem setPicmr_machi (s : State) (v : Word) : (s.setPicmr v).machi = s.machi := rfl
@[simp] theorem setPicmr_maclo (s : State) (v : Word) : (s.setPicmr v).maclo = s.maclo := rfl
@[simp] theorem setPicmr_fpcsr (s : State) (v : Word) : (s.setPicmr v).fpcsr = s.fpcsr := rfl
@[simp] theorem setPicmr_picsr (s : State) (v : Word) : (s.setPicmr v).picsr = s.picsr := rfl
@[simp] theorem setPicmr_mem (s : State) (v : Word) : (s.setPicmr v).mem = s.mem := rfl
@[simp] theorem setPicmr_stored (s : State) (v : Word) : (s.setPicmr v).stored = s.stored := rfl
@[simp] theorem setPicmr_memMap (s : State) (v : Word) : (s.setPicmr v).memMap = s.memMap := rfl
@[simp] theorem setPicmr_irq (s : State) (v : Word) : (s.setPicmr v).irq = s.irq := rfl
@[simp] theorem setPicmr_inputs (s : State) (v : Word) : (s.setPicmr v).inputs = s.inputs := rfl
@[simp] theorem setPicmr_build (s : State) (v : Word) : (s.setPicmr v).build = s.build := rfl
@[simp] theorem setPicmr_draws (s : State) (v : Word) : (s.setPicmr v).draws = s.draws := rfl

/-! ### setByte -/

@[simp] theorem setByte_regs (s : State) (a : Word) (v : Byte) : (s.setByte a v).regs = s.regs := rfl
@[simp] theorem setByte_pc (s : State) (a : Word) (v : Byte) : (s.setByte a v).pc = s.pc := rfl
@[simp] theorem setByte_delay (s : State) (a : Word) (v : Byte) : (s.setByte a v).delay = s.delay := rfl
@[simp] theorem setByte_sr (s : State) (a : Word) (v : Byte) : (s.setByte a v).sr = s.sr := rfl
@[simp] theorem setByte_epcr0 (s : State) (a : Word) (v : Byte) : (s.setByte a v).epcr0 = s.epcr0 := rfl
@[simp] theorem setByte_eear0 (s : State) (a : Word) (v : Byte) : (s.setByte a v).eear0 = s.eear0 := rfl
@[simp] theorem setByte_esr0 (s : State) (a : Word) (v : Byte) : (s.setByte a v).esr0 = s.esr0 := rfl
@[simp] theorem setByte_machi (s : State) (a : Word) (v : Byte) : (s.setByte a v).machi = s.machi := rfl
@[simp] theorem setByte_maclo (s : State) (a : Word) (v : Byte) : (s.setByte a v).maclo = s.maclo := rfl
@[simp] theorem setByte_fpcsr (s : State) (a : Word) (v : Byte) : (s.setByte a v).fpcsr = s.fpcsr := rfl
@[simp] theorem setByte_ium (s : State) (a : Word) (v : Byte) : (s.setByte a v).ium = s.ium := rfl
@[simp] theorem setByte_picsr (s : State) (a : Word) (v : Byte) : (s.setByte a v).picsr = s.picsr := rfl
@[simp] theorem setByte_memMap (s : State) (a : Word) (v : Byte) : (s.setByte a v).memMap = s.memMap := rfl
@[simp] theorem setByte_irq (s : State) (a : Word) (v : Byte) : (s.setByte a v).irq = s.irq := rfl
@[simp] theorem setByte_inputs (s : State) (a : Word) (v : Byte) : (s.setByte a v).inputs = s.inputs := rfl
@[simp] theorem setByte_build (s : State) (a : Word) (v : Byte) : (s.setByte a v).build = s.build := rfl
@[simp] theorem setByte_draws (s : State) (a : Word) (v : Byte) : (s.setByte a v).draws = s.draws := rfl

/-! ### store1 -/

@[simp] theorem store1_regs (s : State) (a : Word) (v : Byte) : (s.store1 a v).regs = s.regs := rfl
@[simp] theorem store1_pc (s : State) (a : Word) (v : Byte) : (s.store1 a v).pc = s.pc := rfl
@[simp] theorem store1_delay (s : State) (a : Word) (v : Byte) : (s.store1 a v).delay = s.delay := rfl
@[simp] theorem store1_sr (s : State) (a : Word) (v : Byte) : (s.store1 a v).sr = s.sr := rfl
@[simp] theorem store1_epcr0 (s : State) (a : Word) (v : Byte) : (s.store1 a v).epcr0 = s.epcr0 := rfl
@[simp] theorem store1_eear0 (s : State) (a : Word) (v : Byte) : (s.store1 a v).eear0 = s.eear0 := rfl
@[simp] theorem store1_esr0 (s : State) (a : Word) (v : Byte) : (s.store1 a v).esr0 = s.esr0 := rfl
@[simp] theorem store1_machi (s : State) (a : Word) (v : Byte) : (s.store1 a v).machi = s.machi := rfl
@[simp] theorem store1_maclo (s : State) (a : Word) (v : Byte) : (s.store1 a v).maclo = s.maclo := rfl
@[simp] theorem store1_fpcsr (s : State) (a : Word) (v : Byte) : (s.store1 a v).fpcsr = s.fpcsr := rfl
@[simp] theorem store1_ium (s : State) (a : Word) (v : Byte) : (s.store1 a v).ium = s.ium := rfl
@[simp] theorem store1_picsr (s : State) (a : Word) (v : Byte) : (s.store1 a v).picsr = s.picsr := rfl
@[simp] theorem store1_memMap (s : State) (a : Word) (v : Byte) : (s.store1 a v).memMap = s.memMap := rfl
@[simp] theorem store1_irq (s : State) (a : Word) (v : Byte) : (s.store1 a v).irq = s.irq := rfl
@[simp] theorem store1_inputs (s : State) (a : Word) (v : Byte) : (s.store1 a v).inputs = s.inputs := rfl
@[simp] theorem store1_build (s : State) (a : Word) (v : Byte) : (s.store1 a v).build = s.build := rfl
@[simp] theorem store1_draws (s : State) (a : Word) (v : Byte) : (s.store1 a v).draws = s.draws := rfl

/-! ### store2 -/

@[simp] theorem store2_regs (s : State) (a : Word) (v : BitVec 16) : (s.store2 a v).regs = s.regs := rfl
@[simp] theorem store2_pc (s : State) (a : Word) (v : BitVec 16) : (s.store2 a v).pc = s.pc := rfl
@[simp] theorem store2_delay (s : State) (a : Word) (v : BitVec 16) : (s.store2 a v).delay = s.delay := rfl
@[simp] theorem store2_sr (s : State) (a : Word) (v : BitVec 16) : (s.store2 a v).sr = s.sr := rfl
@[simp] theorem store2_epcr0 (s : State) (a : Word) (v : BitVec 16) : (s.store2 a v).epcr0 = s.epcr0 := rfl
@[simp] theorem store2_eear0 (s : State) (a : Word) (v : BitVec 16) : (s.store2 a v).eear0 = s.eear0 := rfl
@[simp] theorem store2_esr0 (s : State) (a : Word) (v : BitVec 16) : (s.store2 a v).esr0 = s.esr0 := rfl
@[simp] theorem store2_machi (s : State) (a : Word) (v : BitVec 16) : (s.store2 a v).machi = s.machi := rfl
@[simp] theorem store2_maclo (s : State) (a : Word) (v : BitVec 16) : (s.store2 a v).maclo = s.maclo := rfl
@[simp] theorem store2_fpcsr (s : State) (a : Word) (v : BitVec 16) : (s.store2 a v).fpcsr = s.fpcsr := rfl
@[simp] theorem store2_ium (s : State) (a : Word) (v : BitVec 16) : (s.store2 a v).ium = s.ium := rfl
@[simp] theorem store2_picsr (s : State) (a : Word) (v : BitVec 16) : (s.store2 a v).picsr = s.picsr := rfl
@[simp] theorem store2_memMap (s : State) (a : Word) (v : BitVec 16) : (s.store2 a v).memMap = s.memMap := rfl
@[simp] theorem store2_irq (s : State) (a : Word) (v : BitVec 16) : (s.store2 a v).irq = s.irq := rfl
@[simp] theorem store2_inputs (s : State) (a : Word) (v : BitVec 16) : (s.store2 a v).inputs = s.inputs := rfl
@[simp] theorem store2_build (s : State) (a : Word) (v : BitVec 16) : (s.store2 a v).build = s.build := rfl
@[simp] theorem store2_draws (s : State) (a : Word) (v : BitVec 16) : (s.store2 a v).draws = s.draws := rfl

/-! ### store4 -/

@[simp] theorem store4_regs (s : State) (a : Word) (v : Word) : (s.store4 a v).regs = s.regs := rfl
@[simp] theorem store4_pc (s : State) (a : Word) (v : Word) : (s.store4 a v).pc = s.pc := rfl
@[simp] theorem store4_delay (s : State) (a : Word) (v : Word) : (s.store4 a v).delay = s.delay := rfl
@[simp] theorem store4_sr (s : State) (a : Word) (v : Word) : (s.store4 a v).sr = s.sr := rfl
@[simp] theorem store4_epcr0 (s : State) (a : Word) (v : Word) : (s.store4 a v).epcr0 = s.epcr0 := rfl
@[simp] theorem store4_eear0 (s : State) (a : Word) (v : Word) : (s.store4 a v).eear0 = s.eear0 := rfl
@[simp] theorem store4_esr0 (s : State) (a : Word) (v : Word) : (s.store4 a v).esr0 = s.esr0 := rfl
@[simp] theorem store4_machi (s : State) (a : Word) (v : Word) : (s.store4 a v).machi = s.machi := rfl
@[simp] theorem store4_maclo (s : State) (a : Word) (v : Word) : (s.store4 a v).maclo = s.maclo := rfl
@[simp] theorem store4_fpcsr (s : State) (a : Word) (v : Word) : (s.store4 a v).fpcsr = s.fpcsr := rfl
@[simp] theorem store4_ium (s : State) (a : Word) (v : Word) : (s.store4 a v).ium = s.ium := rfl
@[simp] theorem store4_picsr (s : State) (a : Word) (v : Word) : (s.store4 a v).picsr = s.picsr := rfl
@[simp] theorem store4_memMap (s : State) (a : Word) (v : Word) : (s.store4 a v).memMap = s.memMap := rfl
@[simp] theorem store4_irq (s : State) (a : Word) (v : Word) : (s.store4 a v).irq = s.irq := rfl
@[simp] theorem store4_inputs (s : State) (a : Word) (v : Word) : (s.store4 a v).inputs = s.inputs := rfl
@[simp] theorem store4_build (s : State) (a : Word) (v : Word) : (s.store4 a v).build = s.build := rfl
@[simp] theorem store4_draws (s : State) (a : Word) (v : Word) : (s.store4 a v).draws = s.draws := rfl

/-! ### link -/

@[simp] theorem link_pc (s : State) : s.link.pc = s.pc := rfl
@[simp] theorem link_delay (s : State) : s.link.delay = s.delay := rfl
@[simp] theorem link_sr (s : State) : s.link.sr = s.sr := rfl
@[simp] theorem link_epcr0 (s : State) : s.link.epcr0 = s.epcr0 := rfl
@[simp] theorem link_eear0 (s : State) : s.link.eear0 = s.eear0 := rfl
@[simp] theorem link_esr0 (s : State) : s.link.esr0 = s.esr0 := rfl
@[simp] theorem link_machi (s : State) : s.link.machi = s.machi := rfl
@[simp] theorem link_maclo (s : State) : s.link.maclo = s.maclo := rfl
@[simp] theorem link_fpcsr (s : State) : s.link.fpcsr = s.fpcsr := rfl
@[simp] theorem link_ium (s : State) : s.link.ium = s.ium := rfl
@[simp] theorem link_picsr (s : State) : s.link.picsr = s.picsr := rfl
@[simp] theorem link_mem (s : State) : s.link.mem = s.mem := rfl
@[simp] theorem link_stored (s : State) : s.link.stored = s.stored := rfl
@[simp] theorem link_memMap (s : State) : s.link.memMap = s.memMap := rfl
@[simp] theorem link_irq (s : State) : s.link.irq = s.irq := rfl
@[simp] theorem link_inputs (s : State) : s.link.inputs = s.inputs := rfl
@[simp] theorem link_build (s : State) : s.link.build = s.build := rfl
@[simp] theorem link_draws (s : State) : s.link.draws = s.draws := rfl

/-! ### sample -/

@[simp] theorem sample_regs (s : State) : s.sample.regs = s.regs := rfl
@[simp] theorem sample_pc (s : State) : s.sample.pc = s.pc := rfl
@[simp] theorem sample_delay (s : State) : s.sample.delay = s.delay := rfl
@[simp] theorem sample_sr (s : State) : s.sample.sr = s.sr := rfl
@[simp] theorem sample_epcr0 (s : State) : s.sample.epcr0 = s.epcr0 := rfl
@[simp] theorem sample_eear0 (s : State) : s.sample.eear0 = s.eear0 := rfl
@[simp] theorem sample_esr0 (s : State) : s.sample.esr0 = s.esr0 := rfl
@[simp] theorem sample_machi (s : State) : s.sample.machi = s.machi := rfl
@[simp] theorem sample_maclo (s : State) : s.sample.maclo = s.maclo := rfl
@[simp] theorem sample_fpcsr (s : State) : s.sample.fpcsr = s.fpcsr := rfl
@[simp] theorem sample_ium (s : State) : s.sample.ium = s.ium := rfl
@[simp] theorem sample_mem (s : State) : s.sample.mem = s.mem := rfl
@[simp] theorem sample_stored (s : State) : s.sample.stored = s.stored := rfl
@[simp] theorem sample_memMap (s : State) : s.sample.memMap = s.memMap := rfl
@[simp] theorem sample_build (s : State) : s.sample.build = s.build := rfl
@[simp] theorem sample_draws (s : State) : s.sample.draws = s.draws := rfl

/-! ### recordAddress -/

@[simp] theorem recordAddress_regs (s : State) (o : Option Word) : (s.recordAddress o).regs = s.regs := by cases o <;> rfl
@[simp] theorem recordAddress_pc (s : State) (o : Option Word) : (s.recordAddress o).pc = s.pc := by cases o <;> rfl
@[simp] theorem recordAddress_delay (s : State) (o : Option Word) : (s.recordAddress o).delay = s.delay := by cases o <;> rfl
@[simp] theorem recordAddress_sr (s : State) (o : Option Word) : (s.recordAddress o).sr = s.sr := by cases o <;> rfl
@[simp] theorem recordAddress_epcr0 (s : State) (o : Option Word) : (s.recordAddress o).epcr0 = s.epcr0 := by cases o <;> rfl
@[simp] theorem recordAddress_esr0 (s : State) (o : Option Word) : (s.recordAddress o).esr0 = s.esr0 := by cases o <;> rfl
@[simp] theorem recordAddress_machi (s : State) (o : Option Word) : (s.recordAddress o).machi = s.machi := by cases o <;> rfl
@[simp] theorem recordAddress_maclo (s : State) (o : Option Word) : (s.recordAddress o).maclo = s.maclo := by cases o <;> rfl
@[simp] theorem recordAddress_fpcsr (s : State) (o : Option Word) : (s.recordAddress o).fpcsr = s.fpcsr := by cases o <;> rfl
@[simp] theorem recordAddress_ium (s : State) (o : Option Word) : (s.recordAddress o).ium = s.ium := by cases o <;> rfl
@[simp] theorem recordAddress_picsr (s : State) (o : Option Word) : (s.recordAddress o).picsr = s.picsr := by cases o <;> rfl
@[simp] theorem recordAddress_mem (s : State) (o : Option Word) : (s.recordAddress o).mem = s.mem := by cases o <;> rfl
@[simp] theorem recordAddress_stored (s : State) (o : Option Word) : (s.recordAddress o).stored = s.stored := by cases o <;> rfl
@[simp] theorem recordAddress_memMap (s : State) (o : Option Word) : (s.recordAddress o).memMap = s.memMap := by cases o <;> rfl
@[simp] theorem recordAddress_irq (s : State) (o : Option Word) : (s.recordAddress o).irq = s.irq := by cases o <;> rfl
@[simp] theorem recordAddress_inputs (s : State) (o : Option Word) : (s.recordAddress o).inputs = s.inputs := by cases o <;> rfl
@[simp] theorem recordAddress_build (s : State) (o : Option Word) : (s.recordAddress o).build = s.build := by cases o <;> rfl

/-! ### enter -/

@[simp] theorem enter_regs (s : State) (e : Exc) : (s.enter e).regs = s.regs := recordAddress_regs s e.address
@[simp] theorem enter_machi (s : State) (e : Exc) : (s.enter e).machi = s.machi := recordAddress_machi s e.address
@[simp] theorem enter_maclo (s : State) (e : Exc) : (s.enter e).maclo = s.maclo := recordAddress_maclo s e.address
@[simp] theorem enter_fpcsr (s : State) (e : Exc) : (s.enter e).fpcsr = s.fpcsr := recordAddress_fpcsr s e.address
@[simp] theorem enter_ium (s : State) (e : Exc) : (s.enter e).ium = s.ium := recordAddress_ium s e.address
@[simp] theorem enter_picsr (s : State) (e : Exc) : (s.enter e).picsr = s.picsr := recordAddress_picsr s e.address
@[simp] theorem enter_mem (s : State) (e : Exc) : (s.enter e).mem = s.mem := recordAddress_mem s e.address
@[simp] theorem enter_stored (s : State) (e : Exc) : (s.enter e).stored = s.stored := recordAddress_stored s e.address
@[simp] theorem enter_memMap (s : State) (e : Exc) : (s.enter e).memMap = s.memMap := recordAddress_memMap s e.address
@[simp] theorem enter_irq (s : State) (e : Exc) : (s.enter e).irq = s.irq := recordAddress_irq s e.address
@[simp] theorem enter_inputs (s : State) (e : Exc) : (s.enter e).inputs = s.inputs := recordAddress_inputs s e.address
@[simp] theorem enter_build (s : State) (e : Exc) : (s.enter e).build = s.build := recordAddress_build s e.address

/-! ### draw -/

@[simp] theorem draw_regs (s : State) : s.draw.2.regs = s.regs := rfl
@[simp] theorem draw_pc (s : State) : s.draw.2.pc = s.pc := rfl
@[simp] theorem draw_delay (s : State) : s.draw.2.delay = s.delay := rfl
@[simp] theorem draw_sr (s : State) : s.draw.2.sr = s.sr := rfl
@[simp] theorem draw_epcr0 (s : State) : s.draw.2.epcr0 = s.epcr0 := rfl
@[simp] theorem draw_eear0 (s : State) : s.draw.2.eear0 = s.eear0 := rfl
@[simp] theorem draw_esr0 (s : State) : s.draw.2.esr0 = s.esr0 := rfl
@[simp] theorem draw_machi (s : State) : s.draw.2.machi = s.machi := rfl
@[simp] theorem draw_maclo (s : State) : s.draw.2.maclo = s.maclo := rfl
@[simp] theorem draw_fpcsr (s : State) : s.draw.2.fpcsr = s.fpcsr := rfl
@[simp] theorem draw_ium (s : State) : s.draw.2.ium = s.ium := rfl
@[simp] theorem draw_picsr (s : State) : s.draw.2.picsr = s.picsr := rfl
@[simp] theorem draw_mem (s : State) : s.draw.2.mem = s.mem := rfl
@[simp] theorem draw_stored (s : State) : s.draw.2.stored = s.stored := rfl
@[simp] theorem draw_memMap (s : State) : s.draw.2.memMap = s.memMap := rfl
@[simp] theorem draw_irq (s : State) : s.draw.2.irq = s.irq := rfl
@[simp] theorem draw_inputs (s : State) : s.draw.2.inputs = s.inputs := rfl
@[simp] theorem draw_build (s : State) : s.draw.2.build = s.build := rfl

/-! ## Fields an update writes -/

@[simp] theorem jump_pc (s : State) (t : Word) : (s.jump t).pc = s.pc + 4 := rfl
@[simp] theorem jump_delay (s : State) (t : Word) : (s.jump t).delay = some t := rfl
@[simp] theorem advance_pc (s : State) : s.advance.pc = s.delay.getD (s.pc + 4) := by
  unfold State.advance; cases s.delay <;> rfl
@[simp] theorem advance_delay (s : State) : s.advance.delay = none := by
  unfold State.advance; split <;> simp_all
@[simp] theorem setAcc_machi (s : State) (v : BitVec 64) : (s.setAcc v).machi = v.extractLsb' 32 32 := rfl
@[simp] theorem setAcc_maclo (s : State) (v : BitVec 64) : (s.setAcc v).maclo = v.extractLsb' 0 32 := rfl
@[simp] theorem setFpFlags_fpcsr (s : State) (f : BitVec 9) : (s.setFpFlags f).fpcsr = f ++ s.fpcsr.extractLsb' 0 3 := rfl
@[simp] theorem setPicmr_ium (s : State) (v : Word) : (s.setPicmr v).ium = v.extractLsb' 2 30 &&& iumWired s.build := rfl
@[simp] theorem setByte_mem (s : State) (a : Word) (v : Byte) : (s.setByte a v).mem = Memory.write s.mem a.toNat v := rfl
@[simp] theorem setByte_stored (s : State) (a : Word) (v : Byte) : (s.setByte a v).stored = addAddress s.stored a.toNat := rfl
@[simp] theorem setSrBit_sr (s : State) (i : Nat) (b : Bool) : (s.setSrBit i b).sr = setBit s.sr i b := rfl
@[simp] theorem enter_epcr0 (s : State) (e : Exc) : (s.enter e).epcr0 = savedPc e s.pc s.inSlot := rfl
@[simp] theorem enter_esr0 (s : State) (e : Exc) : (s.enter e).esr0 = setBit s.readSR SR.DSX s.inSlot := rfl
@[simp] theorem enter_sr (s : State) (e : Exc) : (s.enter e).sr = handlerSR (setBit s.readSR SR.DSX s.inSlot) := rfl
@[simp] theorem enter_pc (s : State) (e : Exc) :
    (s.enter e).pc = vectorBase (setBit s.readSR SR.DSX s.inSlot) + e.offset := rfl
@[simp] theorem enter_delay (s : State) (e : Exc) : (s.enter e).delay = none := rfl
@[simp] theorem sample_irq (s : State) : s.sample.irq = s.nextInput.irq := rfl
@[simp] theorem sample_inputs (s : State) : s.sample.inputs = s.inputs.tail := rfl
@[simp] theorem recordAddress_some_eear0 (s : State) (a : Word) : (s.recordAddress (some a)).eear0 = a := rfl
@[simp] theorem enter_alignment_eear0 (s : State) (a : Word) : (s.enter (.alignment a)).eear0 = a := recordAddress_some_eear0 s a
@[simp] theorem enter_alignment_draws (s : State) (a : Word) : (s.enter (.alignment a)).draws = s.draws := by
  change (s.recordAddress (some a)).draws = s.draws; rfl

/-! ## General registers -/

@[simp] theorem reg_setReg_same (s : State) (r : Reg) (v : Word) : (s.setReg r v).reg r = v := by
  simp [State.reg, State.setReg]

theorem reg_setReg_other (s : State) {r x : Reg} (v : Word) (h : x ≠ r) : (s.setReg r v).reg x = s.reg x := by
  have : r.toNat ≠ x.toNat := fun e => h (BitVec.eq_of_toNat_eq e.symm)
  simp [State.reg, State.setReg, this]

theorem reg_setReg (s : State) (r x : Reg) (v : Word) : (s.setReg r v).reg x = if x = r then v else s.reg x := by
  split
  · next h => subst h; simp
  · next h => exact reg_setReg_other s v h

/-! ## Reads over updates -/

@[simp] theorem setReg_srBit (s : State) (r : Reg) (v : Word) (j : Nat) : (s.setReg r v).srBit j = s.srBit j := by
  simp [State.srBit, State.readSR]
@[simp] theorem setReg_byteAt (s : State) (r : Reg) (v : Word) (x : Word) : (s.setReg r v).byteAt x = s.byteAt x := by
  simp [State.byteAt]
@[simp] theorem setSrBit_reg (s : State) (i : Nat) (b : Bool) (x : Reg) : (s.setSrBit i b).reg x = s.reg x := by
  simp [State.reg]
@[simp] theorem setSrBit_byteAt (s : State) (i : Nat) (b : Bool) (x : Word) : (s.setSrBit i b).byteAt x = s.byteAt x := by
  simp [State.byteAt]
@[simp] theorem setCyOv_reg (s : State) (cy ov : Bool) (x : Reg) : (s.setCyOv cy ov).reg x = s.reg x := by
  simp [State.reg]
@[simp] theorem setCyOv_byteAt (s : State) (cy ov : Bool) (x : Word) : (s.setCyOv cy ov).byteAt x = s.byteAt x := by
  simp [State.byteAt]
@[simp] theorem advance_reg (s : State) (x : Reg) : s.advance.reg x = s.reg x := by
  simp [State.reg]
@[simp] theorem advance_srBit (s : State) (j : Nat) : s.advance.srBit j = s.srBit j := by
  simp [State.srBit, State.readSR]
@[simp] theorem advance_byteAt (s : State) (x : Word) : s.advance.byteAt x = s.byteAt x := by
  simp [State.byteAt]
@[simp] theorem jump_reg (s : State) (t : Word) (x : Reg) : (s.jump t).reg x = s.reg x := by
  simp [State.reg]
@[simp] theorem jump_srBit (s : State) (t : Word) (j : Nat) : (s.jump t).srBit j = s.srBit j := by
  simp [State.srBit, State.readSR]
@[simp] theorem jump_byteAt (s : State) (t : Word) (x : Word) : (s.jump t).byteAt x = s.byteAt x := by
  simp [State.byteAt]
@[simp] theorem setAcc_reg (s : State) (v : BitVec 64) (x : Reg) : (s.setAcc v).reg x = s.reg x := by
  simp [State.reg]
@[simp] theorem setAcc_srBit (s : State) (v : BitVec 64) (j : Nat) : (s.setAcc v).srBit j = s.srBit j := by
  simp [State.srBit, State.readSR]
@[simp] theorem setAcc_byteAt (s : State) (v : BitVec 64) (x : Word) : (s.setAcc v).byteAt x = s.byteAt x := by
  simp [State.byteAt]
@[simp] theorem setFpFlags_reg (s : State) (f : BitVec 9) (x : Reg) : (s.setFpFlags f).reg x = s.reg x := by
  simp [State.reg]
@[simp] theorem setFpFlags_srBit (s : State) (f : BitVec 9) (j : Nat) : (s.setFpFlags f).srBit j = s.srBit j := by
  simp [State.srBit, State.readSR]
@[simp] theorem setFpFlags_byteAt (s : State) (f : BitVec 9) (x : Word) : (s.setFpFlags f).byteAt x = s.byteAt x := by
  simp [State.byteAt]
@[simp] theorem setPicmr_reg (s : State) (v : Word) (x : Reg) : (s.setPicmr v).reg x = s.reg x := by
  simp [State.reg]
@[simp] theorem setPicmr_srBit (s : State) (v : Word) (j : Nat) : (s.setPicmr v).srBit j = s.srBit j := by
  simp [State.srBit, State.readSR]
@[simp] theorem setPicmr_byteAt (s : State) (v : Word) (x : Word) : (s.setPicmr v).byteAt x = s.byteAt x := by
  simp [State.byteAt]
@[simp] theorem setByte_reg (s : State) (a : Word) (v : Byte) (x : Reg) : (s.setByte a v).reg x = s.reg x := by
  simp [State.reg]
@[simp] theorem setByte_srBit (s : State) (a : Word) (v : Byte) (j : Nat) : (s.setByte a v).srBit j = s.srBit j := by
  simp [State.srBit, State.readSR]
@[simp] theorem store1_reg (s : State) (a : Word) (v : Byte) (x : Reg) : (s.store1 a v).reg x = s.reg x := by
  simp [State.reg]
@[simp] theorem store1_srBit (s : State) (a : Word) (v : Byte) (j : Nat) : (s.store1 a v).srBit j = s.srBit j := by
  simp [State.srBit, State.readSR]
@[simp] theorem store2_reg (s : State) (a : Word) (v : BitVec 16) (x : Reg) : (s.store2 a v).reg x = s.reg x := by
  simp [State.reg]
@[simp] theorem store2_srBit (s : State) (a : Word) (v : BitVec 16) (j : Nat) : (s.store2 a v).srBit j = s.srBit j := by
  simp [State.srBit, State.readSR]
@[simp] theorem store4_reg (s : State) (a : Word) (v : Word) (x : Reg) : (s.store4 a v).reg x = s.reg x := by
  simp [State.reg]
@[simp] theorem store4_srBit (s : State) (a : Word) (v : Word) (j : Nat) : (s.store4 a v).srBit j = s.srBit j := by
  simp [State.srBit, State.readSR]
@[simp] theorem link_srBit (s : State) (j : Nat) : s.link.srBit j = s.srBit j := by
  simp [State.srBit, State.readSR]
@[simp] theorem link_byteAt (s : State) (x : Word) : s.link.byteAt x = s.byteAt x := by
  simp [State.byteAt]
@[simp] theorem sample_reg (s : State) (x : Reg) : s.sample.reg x = s.reg x := by
  simp [State.reg]
@[simp] theorem sample_srBit (s : State) (j : Nat) : s.sample.srBit j = s.srBit j := by
  simp [State.srBit, State.readSR]
@[simp] theorem sample_byteAt (s : State) (x : Word) : s.sample.byteAt x = s.byteAt x := by
  simp [State.byteAt]
@[simp] theorem recordAddress_reg (s : State) (o : Option Word) (x : Reg) : (s.recordAddress o).reg x = s.reg x := by
  simp [State.reg]
@[simp] theorem recordAddress_srBit (s : State) (o : Option Word) (j : Nat) : (s.recordAddress o).srBit j = s.srBit j := by
  simp [State.srBit, State.readSR]
@[simp] theorem recordAddress_byteAt (s : State) (o : Option Word) (x : Word) : (s.recordAddress o).byteAt x = s.byteAt x := by
  simp [State.byteAt]
@[simp] theorem enter_reg (s : State) (e : Exc) (x : Reg) : (s.enter e).reg x = s.reg x := by
  simp [State.reg]
@[simp] theorem enter_byteAt (s : State) (e : Exc) (x : Word) : (s.enter e).byteAt x = s.byteAt x := by
  simp [State.byteAt]
@[simp] theorem draw_reg (s : State) (x : Reg) : s.draw.2.reg x = s.reg x := by
  simp [State.reg]
@[simp] theorem draw_srBit (s : State) (j : Nat) : s.draw.2.srBit j = s.srBit j := by
  simp [State.srBit, State.readSR]
@[simp] theorem draw_byteAt (s : State) (x : Word) : s.draw.2.byteAt x = s.byteAt x := by
  simp [State.byteAt]

/-! ## Bits of SR -/

theorem getLsbD_setBit (w : Word) (i j : Nat) (b : Bool) (hi : i < 32) :
    (setBit w i b).getLsbD j = if j = i then b else w.getLsbD j := by
  have key : ((1#32) <<< i).getLsbD j = decide (j = i) := by
    simp only [BitVec.getLsbD_shiftLeft, BitVec.getLsbD_one]
    by_cases h : j = i
    · subst h; simp [hi]
    · simp [h]; omega
  by_cases hj : j < 32
  · by_cases h : j = i
    · cases b <;> simp_all [setBit]
    · have off : ((1#32) <<< i).getLsbD j = false := by rw [key, decide_eq_false h]
      rw [if_neg h]
      cases b
      · change (w &&& ~~~((1#32) <<< i)).getLsbD j = _
        rw [BitVec.getLsbD_and, BitVec.getLsbD_not, off]; simp [hj]
      · change (w ||| (1#32) <<< i).getLsbD j = _
        rw [BitVec.getLsbD_or, off, Bool.or_false]
  · have : w.getLsbD j = false := BitVec.getLsbD_of_ge _ _ (by omega)
    have h : j ≠ i := by omega
    cases b <;> simp_all [setBit]

theorem srBit_eq (s : State) (i : Nat) : s.srBit i = if i = SR.FO then true else s.sr.getLsbD i := by
  simp [State.srBit, State.readSR, getLsbD_setBit _ _ _ _ (show SR.FO < 32 by decide)]

theorem setSrBit_srBit (s : State) (i j : Nat) (b : Bool) (hi : i < 32) (hf : i ≠ SR.FO) :
    (s.setSrBit i b).srBit j = if j = i then b else s.srBit j := by
  simp only [srBit_eq, setSrBit_sr, getLsbD_setBit _ _ _ _ hi]
  by_cases h : j = i
  · subst h; simp [hf]
  · simp [h]

theorem setCyOv_srBit (s : State) (cy ov : Bool) (j : Nat) :
    (s.setCyOv cy ov).srBit j = if j = SR.OV then ov else if j = SR.CY then cy else s.srBit j := by
  rw [State.setCyOv, setSrBit_srBit _ _ _ _ (by decide) (by decide), setSrBit_srBit _ _ _ _ (by decide) (by decide)]

theorem setCyOv_srBit_other (s : State) (cy ov : Bool) {j : Nat} (h : j ∉ [SR.CY, SR.OV]) :
    (s.setCyOv cy ov).srBit j = s.srBit j := by
  simp at h; simp [setCyOv_srBit, h]

@[simp] theorem setCyOv_ove (s : State) (cy ov : Bool) : (s.setCyOv cy ov).srBit SR.OVE = s.srBit SR.OVE :=
  setCyOv_srBit_other s cy ov (by decide)
@[simp] theorem setCyOv_cy (s : State) (cy ov : Bool) : (s.setCyOv cy ov).srBit SR.CY = cy := by
  simp [setCyOv_srBit, SR.OV, SR.CY]
@[simp] theorem setCyOv_ov (s : State) (cy ov : Bool) : (s.setCyOv cy ov).srBit SR.OV = ov := by
  simp [setCyOv_srBit]

theorem handlerSR_getLsbD (w : Word) (i : Nat) : (handlerSR w).getLsbD i =
    if i = SR.SM then true else if i ∈ [SR.TEE, SR.IEE, SR.DME, SR.IME, SR.OVE] then false else w.getLsbD i := by
  simp only [handlerSR, getLsbD_setBit _ _ _ _ (show SR.SM < 32 by decide), getLsbD_setBit _ _ _ _ (show SR.TEE < 32 by decide),
    getLsbD_setBit _ _ _ _ (show SR.IEE < 32 by decide), getLsbD_setBit _ _ _ _ (show SR.DME < 32 by decide),
    getLsbD_setBit _ _ _ _ (show SR.IME < 32 by decide), getLsbD_setBit _ _ _ _ (show SR.OVE < 32 by decide)]
  by_cases h0 : i = SR.SM <;> by_cases h1 : i = SR.TEE <;> by_cases h2 : i = SR.IEE <;> by_cases h3 : i = SR.DME <;>
    by_cases h4 : i = SR.IME <;> by_cases h5 : i = SR.OVE <;> simp_all [SR.SM, SR.TEE, SR.IEE, SR.DME, SR.IME, SR.OVE]

theorem enter_srBit (s : State) (e : Exc) (i : Nat) : (s.enter e).srBit i =
    if i = SR.SM then true else if i ∈ [SR.TEE, SR.IEE, SR.DME, SR.IME, SR.OVE] then false
    else if i = SR.DSX then s.inSlot else s.srBit i := by
  simp only [srBit_eq, enter_sr, handlerSR_getLsbD, State.readSR, getLsbD_setBit _ _ _ _ (show SR.DSX < 32 by decide),
    getLsbD_setBit _ _ _ _ (show SR.FO < 32 by decide)]
  by_cases h : i = SR.FO
  · subst h; simp [SR.FO, SR.SM, SR.TEE, SR.IEE, SR.DME, SR.IME, SR.OVE, SR.DSX]
  · simp [h]

@[simp] theorem enter_supervisor (s : State) (e : Exc) : (s.enter e).supervisor = true := by
  simp [State.supervisor, enter_srBit]

end Sys2Proof.Machine
end

