-- ==== Sys2Proof/Laws/Memory.lean ====
section
/-! SUPPORT. Memory: a read after a write, the canonical forms that every write keeps, and the bytes a load or a store touches. -/

namespace Sys2Proof.Machine

/-! ## The list of cells -/

theorem wfFrom_mono {m : Memory} {lo hi : Nat} (h : lo ≤ hi) (hm : Memory.wfFrom hi m = true) : Memory.wfFrom lo m = true := by
  cases m with
  | nil => rfl
  | cons c rest => obtain ⟨k, v⟩ := c; simp_all [Memory.wfFrom]; omega

theorem read_below {m : Memory} {lo a : Nat} (hm : Memory.wfFrom lo m = true) (h : a < lo) : Memory.read m a = Memory.unlisted := by
  induction m generalizing lo with
  | nil => rfl
  | cons c rest ih =>
    obtain ⟨k, v⟩ := c
    simp only [Memory.wfFrom, Bool.and_eq_true, decide_eq_true_eq] at hm
    have hk : k ≠ a := by omega
    simp only [Memory.read, if_neg hk]
    exact ih hm.2 (by omega)

/-- A write to `a` keeps the form from every bound that `a` respects. -/
theorem write_wfFrom {m : Memory} {lo a : Nat} (v : Byte) (hm : Memory.wfFrom lo m = true) (h : lo ≤ a) (ha : a < 4294967296) :
    Memory.wfFrom lo (Memory.write m a v) = true := by
  induction m generalizing lo with
  | nil => by_cases hv : v = Memory.unlisted <;> simp [Memory.write, Memory.wfFrom, hv, h, ha]
  | cons c rest ih =>
    obtain ⟨k, x⟩ := c
    simp only [Memory.wfFrom, Bool.and_eq_true, decide_eq_true_eq] at hm
    obtain ⟨⟨⟨hlo, hk⟩, hx⟩, hr⟩ := hm
    simp only [Memory.write]
    split
    · next hlt =>
      split
      · simp [Memory.wfFrom, *]
      · next hv => simp [Memory.wfFrom, *]
    · next hlt =>
      split
      · next he =>
        subst he
        split
        · exact wfFrom_mono (by omega) hr
        · next hv => simp [Memory.wfFrom, *]
      · next he =>
        have := ih hr (by omega)
        simp [Memory.wfFrom, *]

/-- A write to an address of the 32-bit space keeps memory canonical. -/
theorem write_wf {m : Memory} {a : Nat} (v : Byte) (hm : m.wf = true) (ha : a < 4294967296) : (Memory.write m a v).wf = true :=
  write_wfFrom v hm (Nat.zero_le a) ha

theorem read_write {m : Memory} {lo : Nat} (a : Nat) (v : Byte) (x : Nat) (hm : Memory.wfFrom lo m = true) :
    Memory.read (Memory.write m a v) x = if x = a then v else Memory.read m x := by
  induction m generalizing lo with
  | nil =>
    simp only [Memory.write]
    split
    · next hv => subst hv; simp [Memory.read]
    · by_cases h : x = a
      · subst h; simp [Memory.read]
      · simp [Memory.read, h, Ne.symm h]
  | cons c rest ih =>
    obtain ⟨k, y⟩ := c
    simp only [Memory.wfFrom, Bool.and_eq_true, decide_eq_true_eq] at hm
    obtain ⟨⟨⟨hlo, hk⟩, hy⟩, hr⟩ := hm
    simp only [Memory.write]
    split
    · next hlt =>
      have below : x = a → Memory.read ((k, y) :: rest) x = Memory.unlisted := by
        intro e; subst e
        rw [Memory.read, if_neg (by omega)]
        exact read_below hr (by omega)
      split
      · next hv => subst hv; split
                   · next e => exact below e
                   · rfl
      · by_cases h : x = a
        · subst h; simp [Memory.read]
        · simp [Memory.read, h, Ne.symm h]
    · next hlt =>
      split
      · next he =>
        subst he
        split
        · next hv =>
          subst hv; split
          · next e => subst e; exact read_below hr (by omega)
          · next e => rw [Memory.read, if_neg (Ne.symm e)]
        · by_cases h : x = a
          · subst h; simp [Memory.read]
          · simp [Memory.read, h, Ne.symm h]
      · next he =>
        simp only [Memory.read, ih hr]
        by_cases h : k = x
        · subst h; simp [Ne.symm he]
        · simp [h]

/-- Of any list of cells, canonical or not: a write leaves every other address alone. -/
theorem read_write_other (m : Memory) {a x : Nat} (v : Byte) (h : x ≠ a) : Memory.read (Memory.write m a v) x = Memory.read m x := by
  induction m with
  | nil => simp only [Memory.write]; split <;> simp [Memory.read, Ne.symm h]
  | cons c rest ih =>
    obtain ⟨k, y⟩ := c
    simp only [Memory.write]
    split
    · split <;> simp [Memory.read, Ne.symm h]
    · split
      · next he => subst he; split <;> simp [Memory.read, Ne.symm h]
      · simp [Memory.read, ih]

/-! ## The list of stored addresses -/

theorem rising_mono {l : List Nat} {lo hi : Nat} (h : lo ≤ hi) (hl : risingFrom hi l = true) : risingFrom lo l = true := by
  cases l with
  | nil => rfl
  | cons k rest => simp_all [risingFrom]; omega

theorem addAddress_risingFrom {l : List Nat} {lo a : Nat} (hl : risingFrom lo l = true) (h : lo ≤ a) :
    risingFrom lo (addAddress l a) = true := by
  induction l generalizing lo with
  | nil => simp [addAddress, risingFrom, h]
  | cons k rest ih =>
    simp only [risingFrom, Bool.and_eq_true, decide_eq_true_eq] at hl
    obtain ⟨hlo, hr⟩ := hl
    simp only [addAddress]
    split
    · next hlt => simp [risingFrom, hr, h]; omega
    · split
      · next he => simp [risingFrom, hr, hlo]
      · have := ih hr (by omega)
        simp [risingFrom, hlo, this]

theorem mem_addAddress (l : List Nat) (a x : Nat) : x ∈ addAddress l a ↔ x = a ∨ x ∈ l := by
  induction l with
  | nil => simp [addAddress]
  | cons k rest ih =>
    simp only [addAddress]
    split
    · simp
    · split
      · next he => subst he; simp
      · simp [ih]; tauto

/-! ## Bytes of a state -/

theorem byteAt_setByte_other (s : State) {a x : Word} (v : Byte) (h : x ≠ a) : (s.setByte a v).byteAt x = s.byteAt x :=
  read_write_other _ _ fun e => h (BitVec.eq_of_toNat_eq e)

theorem byteAt_setByte_same (s : State) (a : Word) (v : Byte) (hs : s.mem.wf = true) : (s.setByte a v).byteAt a = v := by
  rw [State.byteAt, setByte_mem, read_write _ _ _ hs, if_pos rfl]

theorem setByte_wf (s : State) (a : Word) (v : Byte) (hs : s.mem.wf = true) : (s.setByte a v).mem.wf = true :=
  write_wf v hs a.isLt

theorem setByte_rising (s : State) (a : Word) (v : Byte) (hs : risingFrom 0 s.stored = true) :
    risingFrom 0 (s.setByte a v).stored = true := addAddress_risingFrom hs (Nat.zero_le _)

/-- A store keeps the canonical forms: memory's. -/
theorem store_wf (s : State) (hs : s.mem.wf = true) (a : Word) :
    (∀ v, (s.store1 a v).mem.wf = true) ∧ (∀ v, (s.store2 a v).mem.wf = true) ∧ (∀ v, (s.store4 a v).mem.wf = true) := by
  refine ⟨fun v => ?_, fun v => ?_, fun v => ?_⟩
  · exact setByte_wf _ _ _ hs
  · exact setByte_wf _ _ _ (setByte_wf _ _ _ hs)
  · exact setByte_wf _ _ _ (setByte_wf _ _ _ (setByte_wf _ _ _ (setByte_wf _ _ _ hs)))

/-- A store keeps the canonical forms: the stored addresses'. -/
theorem store_rising (s : State) (hs : risingFrom 0 s.stored = true) (a : Word) :
    (∀ v, risingFrom 0 (s.store1 a v).stored = true) ∧ (∀ v, risingFrom 0 (s.store2 a v).stored = true) ∧
      (∀ v, risingFrom 0 (s.store4 a v).stored = true) := by
  refine ⟨fun v => ?_, fun v => ?_, fun v => ?_⟩
  · exact setByte_rising _ _ _ hs
  · exact setByte_rising _ _ _ (setByte_rising _ _ _ hs)
  · exact setByte_rising _ _ _ (setByte_rising _ _ _ (setByte_rising _ _ _ (setByte_rising _ _ _ hs)))

/-- A store leaves every byte outside its span alone. -/
theorem store1_other (s : State) {a x : Word} (v : Byte) (h : x ∉ span a 1) : (s.store1 a v).byteAt x = s.byteAt x := by
  simp [span] at h
  exact byteAt_setByte_other _ _ h

theorem store2_other (s : State) {a x : Word} (v : BitVec 16) (h : x ∉ span a 2) : (s.store2 a v).byteAt x = s.byteAt x := by
  simp [span, List.range, List.range.loop] at h
  have h1 : x ≠ a + 1 := h.2
  rw [State.store2, byteAt_setByte_other _ _ h1, byteAt_setByte_other _ _ h.1]

theorem store4_other (s : State) {a x : Word} (v : Word) (h : x ∉ span a 4) : (s.store4 a v).byteAt x = s.byteAt x := by
  simp [span, List.range, List.range.loop] at h
  have h1 : x ≠ a + 1 := h.2.1
  have h2 : x ≠ a + 2 := h.2.2.1
  have h3 : x ≠ a + 3 := h.2.2.2
  rw [State.store4, byteAt_setByte_other _ _ h3, byteAt_setByte_other _ _ h2, byteAt_setByte_other _ _ h1,
    byteAt_setByte_other _ _ h.1]

/-- The bytes a word store leaves, most significant first. -/
theorem store4_bytes (s : State) (a v : Word) (hs : s.mem.wf = true) :
    (s.store4 a v).byteAt a = v.extractLsb' 24 8 ∧ (s.store4 a v).byteAt (a + 1) = v.extractLsb' 16 8 ∧
      (s.store4 a v).byteAt (a + 2) = v.extractLsb' 8 8 ∧ (s.store4 a v).byteAt (a + 3) = v.extractLsb' 0 8 := by
  have h1 := setByte_wf s a (v.extractLsb' 24 8) hs
  have h2 := setByte_wf _ (a + 1) (v.extractLsb' 16 8) h1
  have h3 := setByte_wf _ (a + 2) (v.extractLsb' 8 8) h2
  refine ⟨?_, ?_, ?_, ?_⟩
  · rw [State.store4, byteAt_setByte_other, byteAt_setByte_other, byteAt_setByte_other, byteAt_setByte_same _ _ _ hs] <;> bv_omega
  · rw [State.store4, byteAt_setByte_other, byteAt_setByte_other, byteAt_setByte_same _ _ _ h1] <;> bv_omega
  · rw [State.store4, byteAt_setByte_other, byteAt_setByte_same _ _ _ h2]; bv_omega
  · rw [State.store4, byteAt_setByte_same _ _ _ h3]

/-- The bytes a half-word store leaves, most significant first. -/
theorem store2_bytes (s : State) (a : Word) (v : BitVec 16) (hs : s.mem.wf = true) :
    (s.store2 a v).byteAt a = v.extractLsb' 8 8 ∧ (s.store2 a v).byteAt (a + 1) = v.extractLsb' 0 8 := by
  have h1 := setByte_wf s a (v.extractLsb' 8 8) hs
  refine ⟨?_, ?_⟩
  · rw [State.store2, byteAt_setByte_other, byteAt_setByte_same _ _ _ hs]; bv_omega
  · rw [State.store2, byteAt_setByte_same _ _ _ h1]

/-- Which addresses a word store adds to the stored ones. -/
theorem mem_store4_stored (s : State) (a v : Word) (x : Nat) :
    x ∈ (s.store4 a v).stored ↔ x ∈ (span a 4).map BitVec.toNat ∨ x ∈ s.stored := by
  simp [State.store4, mem_addAddress, span, List.range, List.range.loop]; tauto

end Sys2Proof.Machine
end

