-- ==== Sys2Proof/Laws/Ops.lean ====
section
/-! SUPPORT. What each shared operation can do, said once: when it completes, and what its next state then is. -/

namespace Sys2Proof.Machine

/-! ## Outcomes -/

/-- Whenever the outcome is a next state, that state has the property. -/
def Ensures (P : State → Prop) (r : Result) : Prop := ∀ t, r = .next t → P t

theorem ensures_next {P : State → Prop} {t : State} (h : P t) : Ensures P (.next t) := by
  intro u hu; injection hu with hu; exact hu ▸ h

theorem ensures_refused {P : State → Prop} (r : Refusal) : Ensures P (.refused r) := by intro u hu; cases hu

theorem ensures_ite {P : State → Prop} {c : Prop} [Decidable c] {a b : Result} (ha : c → Ensures P a) (hb : ¬c → Ensures P b) :
    Ensures P (if c then a else b) := by
  split
  · next h => exact ha h
  · next h => exact hb h

/-! ## Registers -/

theorem writeReg_completes {d : Reg} {v : Word} (s : State) (k : State → Result) (h : Writable d v) :
    writeReg d v s k = k (s.setReg d v) := by
  have : ¬(d = 0 ∧ v ≠ 0) := fun ⟨hd, hv⟩ => hv (h hd)
  rw [writeReg, if_neg this]

theorem writeReg_refuses {d : Reg} {v : Word} (s : State) (k : State → Result) (h : ¬Writable d v) :
    writeReg d v s k = .refused .nonZeroWriteToR0 := by
  have : d = 0 ∧ v ≠ 0 := by
    unfold Writable at h; push Not at h; exact h
  rw [writeReg, if_pos this]

theorem writeReg_next {d : Reg} {v : Word} {s t : State} {k : State → Result} (h : writeReg d v s k = .next t) :
    Writable d v ∧ k (s.setReg d v) = .next t := by
  by_cases hw : Writable d v
  · exact ⟨hw, (writeReg_completes s k hw) ▸ h⟩
  · rw [writeReg_refuses s k hw] at h; cases h

theorem ensures_writeReg {P : State → Prop} {d : Reg} {v : Word} {s : State} {k : State → Result}
    (h : Writable d v → Ensures P (k (s.setReg d v))) : Ensures P (writeReg d v s k) :=
  fun t ht => h (writeReg_next ht).1 t (writeReg_next ht).2

theorem writeRegFree_completes {d : Reg} (s : State) (k : State → Result) (h : d ≠ 0) :
    writeRegFree d s k = k (s.draw.2.setReg d s.draw.1) := by rw [writeRegFree, if_neg h]

theorem ensures_writeRegFree {P : State → Prop} {d : Reg} {s : State} {k : State → Result}
    (h : d ≠ 0 → Ensures P (k (s.draw.2.setReg d s.draw.1))) : Ensures P (writeRegFree d s k) := by
  unfold writeRegFree
  exact ensures_ite (fun _ => ensures_refused _) h

theorem finishReg_completes {d : Reg} {v : Word} (s : State) (h : Writable d v) :
    finishReg d v s = .next (s.setReg d v).advance := writeReg_completes s _ h

theorem ensures_finishReg {P : State → Prop} {d : Reg} {v : Word} {s : State} (h : Writable d v → P (s.setReg d v).advance) :
    Ensures P (finishReg d v s) := ensures_writeReg fun hw => ensures_next (h hw)

/-! ## Exceptions -/

theorem raise_completes (e : Exc) (s : State) (h : e.savesNext = true → s.inSlot = false) : raise e s = .next (s.enter e) := by
  have : (e.savesNext && s.inSlot) = false := by
    cases he : e.savesNext <;> simp_all
  simp [raise, this]

theorem ensures_raise {P : State → Prop} {e : Exc} {s : State} (h : P (s.enter e)) : Ensures P (raise e s) := by
  unfold raise
  exact ensures_ite (fun _ => ensures_refused _) fun _ => ensures_next h

/-- Trap entry does what R305 says. -/
theorem enter_entered (s : State) (e : Exc) : Entered s e.offset (savedPc e s.pc s.inSlot) (s.enter e) where
  epcr0 := rfl
  esr0 i := by
    rw [enter_esr0, getLsbD_setBit _ _ _ _ (by decide)]; rfl
  supervisor := enter_supervisor s e
  cleared i h := by
    have : i ≠ SR.SM := by
      intro hi; subst hi; revert h; decide
    simp only [enter_srBit, if_neg this, if_pos h]
  dsx := by simp [enter_srBit, SR.DSX, SR.SM, SR.TEE, SR.IEE, SR.DME, SR.IME, SR.OVE]
  kept i h := by
    simp [SR.trapBits] at h
    simp [enter_srBit, h]
  pc := by
    rw [enter_pc, vectorBase, getLsbD_setBit _ _ _ _ (by decide)]; rfl
  delay := rfl

theorem savedPc_resume (e : Exc) (s : State) (h : e.savesNext = false) : savedPc e s.pc s.inSlot = s.resumePc := by
  simp [savedPc, h, State.resumePc]

theorem returnFromException_completes (s : State) (hm : s.supervisor = true) (ha : s.epcr0.toNat % 4 = 0)
    (he : s.esr0 &&& srNotModelled = 0) (hd : s.delay = none) :
    returnFromException s = .next { s with sr := setBit s.esr0 SR.FO true, pc := s.epcr0, delay := none } := by
  simp [returnFromException, hm, alignedTo, ha, srWritten, he, State.inSlot, hd]

theorem ensures_returnFromException {P : State → Prop} {s : State}
    (h : s.supervisor = true → s.epcr0.toNat % 4 = 0 → s.esr0 &&& srNotModelled = 0 → s.delay = none →
      P { s with sr := setBit s.esr0 SR.FO true, pc := s.epcr0, delay := none }) : Ensures P (returnFromException s) := by
  unfold returnFromException srWritten
  refine ensures_ite (fun _ => ensures_refused _) fun hm => ensures_ite (fun _ => ensures_refused _) fun ha => ?_
  by_cases he : s.esr0 &&& srNotModelled = 0
  · rw [if_pos he]
    refine ensures_ite (fun _ => ensures_refused _) fun hd => ensures_next (h ?_ ?_ he ?_)
    · simpa using hm
    · simpa [alignedTo] using ha
    · simpa [State.inSlot] using hd
  · rw [if_neg he]; exact ensures_refused _

/-! ## Ends of instructions -/

theorem finishArith_completes {cy ov range : Bool} (s : State) (h : ¬(range = true ∧ s.srBit SR.OVE = true)) :
    finishArith cy ov range s = .next (s.setCyOv cy ov).advance := by
  have : (range && s.srBit SR.OVE) = false := by cases range <;> simp_all
  simp [finishArith, this]

theorem finishArith_traps {cy ov range : Bool} (s : State) (h : range = true ∧ s.srBit SR.OVE = true) :
    finishArith cy ov range s = .next ((s.setCyOv cy ov).enter .range) := by
  simp [finishArith, h, raise, Exc.savesNext]

theorem ensures_finishArith {P : State → Prop} {cy ov range : Bool} {s : State} (h : P (s.setCyOv cy ov).advance)
    (ht : P ((s.setCyOv cy ov).enter .range)) : Ensures P (finishArith cy ov range s) := by
  unfold finishArith
  exact ensures_ite (fun _ => ensures_raise ht) fun _ => ensures_next h

theorem ensures_outsideSlot {P : State → Prop} {s : State} {k : Result} (h : s.delay = none → Ensures P k) :
    Ensures P (outsideSlot s k) := by
  unfold outsideSlot
  refine ensures_ite (fun _ => ensures_refused _) fun hs => h ?_
  simpa [State.inSlot] using hs

theorem outsideSlot_completes (s : State) (k : Result) (h : s.delay = none) : outsideSlot s k = k := by
  simp [outsideSlot, State.inSlot, h]

/-! ## Loads and stores -/

theorem isMemory_iff (s : State) (ea : Word) (n : Nat) : s.isMemory ea n = true ↔ ∀ x ∈ span ea n, s.kindAt x = some .memory := by
  simp [State.isMemory, List.all_eq_true]

theorem isMapped_iff (s : State) (ea : Word) (n : Nat) : s.isMapped ea n = true ↔ ∀ x ∈ span ea n, s.kindAt x ≠ none := by
  simp [State.isMapped, List.all_eq_true, Option.isSome_iff_ne_none]

/-- Some byte of an access is outside the memory map. -/
theorem exists_unmapped_iff (s : State) (ea : Word) (n : Nat) : (∃ x ∈ span ea n, s.kindAt x = none) ↔ s.isMapped ea n = false := by
  rw [← Bool.not_eq_true, isMapped_iff]; push Not; rfl

/-- Some byte of a mapped access is in a device window. -/
theorem exists_device_iff {s : State} {ea : Word} {n : Nat} (hm : s.isMapped ea n = true) :
    (∃ x ∈ span ea n, s.kindAt x = some .device) ↔ s.isMemory ea n = false := by
  rw [← Bool.not_eq_true, isMemory_iff]
  refine ⟨fun ⟨x, hx, hk⟩ h => (by rw [h x hx] at hk; cases hk), fun h => ?_⟩
  push Not at h
  obtain ⟨x, hx, hk⟩ := h
  refine ⟨x, hx, ?_⟩
  cases hv : s.kindAt x with
  | none => exact absurd hv ((isMapped_iff _ _ _).mp hm x hx)
  | some k => cases k with
    | memory => exact absurd hv hk
    | device => rfl

/-- Memory is in the memory map. -/
theorem isMapped_of_isMemory {s : State} {ea : Word} {n : Nat} (h : s.isMemory ea n = true) : s.isMapped ea n = true :=
  (isMapped_iff _ _ _).mpr fun x hx => by rw [(isMemory_iff _ _ _).mp h x hx]; exact Option.some_ne_none _

theorem withAccess_completes {n : Nat} {ea : Word} (s : State) (k : Result) (ha : ea.toNat % n = 0) (hm : s.isMapped ea n = true) :
    withAccess n ea s k = k := by
  simp [withAccess, alignedTo, ha, hm]

theorem withAccess_unmapped {n : Nat} {ea : Word} (s : State) (k : Result) (ha : ea.toNat % n = 0) (hm : s.isMapped ea n = false) :
    withAccess n ea s k = .refused .accessOutsideMemoryMap := by
  simp [withAccess, alignedTo, ha, hm]

theorem withAccess_misaligned {n : Nat} {ea : Word} (s : State) (k : Result) (ha : ea.toNat % n ≠ 0) :
    withAccess n ea s k = .next (s.enter (.alignment ea)) := by
  simp [withAccess, alignedTo, ha, raise, Exc.savesNext]

theorem ensures_withAccess {P : State → Prop} {n : Nat} {ea : Word} {s : State} {k : Result}
    (ht : P (s.enter (.alignment ea))) (h : ea.toNat % n = 0 → s.isMapped ea n = true → Ensures P k) :
    Ensures P (withAccess n ea s k) := by
  unfold withAccess
  refine ensures_ite (fun _ => ensures_raise ht) fun ha => ensures_ite (fun hm => h (by simpa [alignedTo] using ha) hm) fun _ => ?_
  exact ensures_refused _

/-- A load from memory. -/
theorem loadInto_memory {n : Nat} {ea : Word} (d : Reg) (value : (Word → Byte) → Word) (s : State) (ha : ea.toNat % n = 0)
    (hm : s.isMemory ea n = true) : loadInto n d ea value s = finishReg d (value s.byteAt) s := by
  rw [loadInto, withAccess_completes s _ ha (isMapped_of_isMemory hm), if_pos hm]

/-- A load with a byte in a device window uses one free value. -/
theorem loadInto_device {n : Nat} {ea : Word} (d : Reg) (value : (Word → Byte) → Word) (s : State) (ha : ea.toNat % n = 0)
    (hm : s.isMapped ea n = true) (hd : s.isMemory ea n = false) :
    loadInto n d ea value s = finishReg d (value (s.byteRead ea s.draw.1)) s.draw.2 := by
  rw [loadInto, withAccess_completes s _ ha hm, if_neg (by simp [hd])]

theorem loadInto_unmapped {n : Nat} {ea : Word} (d : Reg) (value : (Word → Byte) → Word) (s : State) (ha : ea.toNat % n = 0)
    (hm : s.isMapped ea n = false) : loadInto n d ea value s = .refused .accessOutsideMemoryMap := withAccess_unmapped s _ ha hm

/-- Outside a device window a load reads memory. -/
theorem byteRead_memory {s : State} {ea answer a : Word} (h : s.kindAt a = some .memory) : s.byteRead ea answer a = s.byteAt a := by
  simp [State.byteRead, h]

/-- Everything a load can do: Alignment, or a write of rD, after a free value has been used where the peripheral answers. -/
theorem ensures_loadInto {P : State → Prop} {n : Nat} {d : Reg} {ea : Word} {value : (Word → Byte) → Word} {s : State}
    (ht : P (s.enter (.alignment ea))) (hm : ∀ v, Writable d v → P (s.setReg d v).advance)
    (hd : ∀ v, Writable d v → P (s.draw.2.setReg d v).advance) : Ensures P (loadInto n d ea value s) :=
  ensures_withAccess ht fun _ _ => ensures_ite (fun _ => ensures_finishReg (hm _)) fun _ => ensures_finishReg (hd _)

theorem goesOn_advance (s : State) : GoesOn s s.advance := ⟨advance_pc s, advance_delay s⟩

/-! ## Frames of the updates -/

theorem Keeps.refl (w : Writes) (s : State) : Keeps w s s := by constructor <;> try simp

theorem Keeps.trans {w : Writes} {s t u : State} (h : Keeps w s t) (k : Keeps w t u) : Keeps w s u where
  regs r hr := (k.regs r hr).trans (h.regs r hr)
  sr i hi := (k.sr i hi).trans (h.sr i hi)
  mac hw := ⟨(k.mac hw).1.trans (h.mac hw).1, (k.mac hw).2.trans (h.mac hw).2⟩
  saved hw := ⟨(k.saved hw).1.trans (h.saved hw).1, (k.saved hw).2.1.trans (h.saved hw).2.1, (k.saved hw).2.2.trans (h.saved hw).2.2⟩
  fpcsr hw := (k.fpcsr hw).trans (h.fpcsr hw)
  picmr hw := (k.picmr hw).trans (h.picmr hw)
  picsr hw := (k.picsr hw).trans (h.picsr hw)
  memory a ha := (k.memory a ha).trans (h.memory a ha)
  stored hw := (k.stored hw).trans (h.stored hw)
  draws hw := (k.draws hw).trans (h.draws hw)
  platform := ⟨k.platform.1.trans h.platform.1, k.platform.2.1.trans h.platform.2.1, k.platform.2.2.1.trans h.platform.2.2.1,
    k.platform.2.2.2.trans h.platform.2.2.2⟩

theorem keeps_setReg {w : Writes} {d : Reg} (s : State) (v : Word) (h : d ∈ w.regs) : Keeps w s (s.setReg d v) := by
  constructor <;> try simp
  exact fun r hr => reg_setReg_other s v fun e => hr (e ▸ h)

theorem keeps_setSrBit {w : Writes} {i : Nat} (s : State) (b : Bool) (h : i ∈ w.sr) (hi : i < 32) (hf : i ≠ SR.FO) :
    Keeps w s (s.setSrBit i b) := by
  constructor <;> try simp
  intro j hj
  have ne : j ≠ i := fun e => hj (e ▸ h)
  rw [setSrBit_srBit _ _ _ _ hi hf, if_neg ne]

theorem keeps_setCyOv {w : Writes} (s : State) (cy ov : Bool) (hc : SR.CY ∈ w.sr) (ho : SR.OV ∈ w.sr) :
    Keeps w s (s.setCyOv cy ov) :=
  (keeps_setSrBit s cy hc (by decide) (by decide)).trans (keeps_setSrBit _ ov ho (by decide) (by decide))

theorem keeps_advance (w : Writes) (s : State) : Keeps w s s.advance := by constructor <;> try simp

theorem keeps_jump (w : Writes) (s : State) (t : Word) : Keeps w s (s.jump t) := by constructor <;> try simp

theorem keeps_setAcc {w : Writes} (s : State) (v : BitVec 64) (h : w.mac = true) : Keeps w s (s.setAcc v) := by
  constructor <;> try simp [h]

theorem keeps_setFpFlags {w : Writes} (s : State) (f : BitVec 9) (h : w.fpcsr = true) : Keeps w s (s.setFpFlags f) := by
  constructor <;> try simp [h]

theorem keeps_draw {w : Writes} (s : State) (h : w.draws = true) : Keeps w s s.draw.2 := by constructor <;> try simp [h]

theorem keeps_setByte {w : Writes} {a : Word} (s : State) (v : Byte) (h : a ∈ w.bytes) : Keeps w s (s.setByte a v) := by
  constructor <;> try simp
  · exact fun x hx => byteAt_setByte_other s v fun e => hx (e ▸ h)
  · intro e; simp [e] at h

theorem keeps_enter {w : Writes} (s : State) (e : Exc) (hsr : ∀ i ∈ SR.trapBits, i ∈ w.sr) (hs : w.saved = true) (hd : w.draws = true) :
    Keeps w s (s.enter e) := by
  constructor <;> try simp [hs, hd]
  exact fun i hi => (enter_entered s e).kept i fun h => hi (hsr i h)

theorem keeps_enter_alignment {w : Writes} (s : State) (a : Word) (hsr : ∀ i ∈ SR.trapBits, i ∈ w.sr) (hs : w.saved = true) :
    Keeps w s (s.enter (.alignment a)) := by
  constructor <;> try simp [hs]
  exact fun i hi => (enter_entered s _).kept i fun h => hi (hsr i h)

end Sys2Proof.Machine
end

