-- ==== Sys2Proof/Laws/Results.lean ====
section
/-! SUPPORT. What the shared ends of instructions leave behind when they complete, in the words of Safety.lean. A statement about an
instruction cites the one of its end. -/

namespace Sys2Proof.Machine

/-- Going on after writes that do not touch the pc or the pending target. -/
theorem goesOn_of_same {s u : State} (hp : u.pc = s.pc) (hd : u.delay = s.delay) : GoesOn s u.advance := by
  rw [GoesOn, advance_pc, hp, hd]; exact ⟨rfl, advance_delay u⟩

/-- A write of rD and nothing else. -/
theorem finishReg_result {d : Reg} {v : Word} (s : State) (h : Writable d v) :
    ∃ t, finishReg d v s = .next t ∧ t.reg d = v ∧ Keeps { regs := [d] } s t ∧ GoesOn s t :=
  ⟨_, finishReg_completes s h, by simp, (keeps_setReg s v (by simp)).trans (keeps_advance _ _), goesOn_of_same rfl rfl⟩

/-- A write of SR[F] and nothing else. -/
theorem finishFlag_result (s : State) (b : Bool) :
    ∃ t, finishFlag b s = .next t ∧ t.srBit SR.F = b ∧ Keeps { sr := [SR.F] } s t ∧ GoesOn s t :=
  ⟨_, rfl, by rw [advance_srBit, setSrBit_srBit _ _ _ _ (by decide) (by decide), if_pos rfl],
    (keeps_setSrBit s b (by simp) (by decide) (by decide)).trans (keeps_advance _ _), goesOn_of_same rfl rfl⟩

/-- The writes of an arithmetic instruction. -/
theorem arithWrites_setReg (s : State) (d : Reg) (v : Word) (cy ov : Bool) :
    ArithWrites d v (cy = true) (ov = true) s ((s.setReg d v).setCyOv cy ov) :=
  ⟨by simp, by simp, by simp, (keeps_setReg s v (by simp)).trans (keeps_setCyOv _ _ _ (by simp) (by simp))⟩

theorem arithWrites_advance {d : Reg} {v : Word} {cy ov : Prop} {s u : State} (h : ArithWrites d v cy ov s u) :
    ArithWrites d v cy ov s u.advance :=
  ⟨by simpa using h.1, by simpa using h.2.1, by simpa using h.2.2.1, h.2.2.2.trans (keeps_advance _ _)⟩

theorem arithWrites_congr {d : Reg} {v : Word} {cy cy' ov ov' : Prop} {s t : State} (hc : cy ↔ cy') (ho : ov ↔ ov')
    (h : ArithWrites d v cy ov s t) : ArithWrites d v cy' ov' s t :=
  ⟨h.1, h.2.1.trans hc, h.2.2.1.trans ho, h.2.2.2⟩

/-- An arithmetic instruction where Range is not due. -/
theorem arith_completes {i : Instr} {d : Reg} {v : Word} {cy ov : Bool} {c o : Prop} {s : State}
    (he : exec i s = writeReg d v s (finishArith cy ov ov)) (hc : cy = true ↔ c) (ho : ov = true ↔ o) : ArithCompletes i d v c o s := by
  intro hw hr
  refine ⟨((s.setReg d v).setCyOv cy ov).advance, ?_, arithWrites_congr hc ho (arithWrites_advance (arithWrites_setReg s d v cy ov)),
    goesOn_of_same rfl rfl⟩
  rw [he, writeReg_completes s _ hw, finishArith_completes]
  simpa [ho] using hr

/-- An arithmetic instruction that takes Range. -/
theorem arith_traps {i : Instr} {d : Reg} {v : Word} {cy ov : Bool} {c o : Prop} {s : State}
    (he : exec i s = writeReg d v s (finishArith cy ov ov)) (hc : cy = true ↔ c) (ho : ov = true ↔ o) : ArithTraps i d v c o s := by
  intro hw hov hove
  refine ⟨(s.setReg d v).setCyOv cy ov, ((s.setReg d v).setCyOv cy ov).enter .range, ?_,
    arithWrites_congr hc ho (arithWrites_setReg s d v cy ov), rfl, rfl, enter_entered _ .range,
    keeps_enter _ _ (fun _ h => h) rfl rfl⟩
  rw [he, writeReg_completes s _ hw, finishArith_traps]
  exact ⟨ho.mpr hov, by simpa using hove⟩

/-- Taking an exception. -/
theorem raise_result (e : Exc) (s : State) (h : e.savesNext = true → s.inSlot = false) :
    ∃ t, raise e s = .next t ∧ Entered s e.offset (savedPc e s.pc s.inSlot) t ∧ TrapKeeps s t :=
  ⟨_, raise_completes e s h, enter_entered s e, keeps_enter _ _ (fun _ h => h) rfl rfl⟩

/-- Taking Alignment: EEAR0 is the misaligned address and no free value is used. -/
theorem alignment_result (ea : Word) (s : State) :
    ∃ t, raise (.alignment ea) s = .next t ∧ Entered s 0x00000600 s.resumePc t ∧ t.eear0 = ea ∧
      Keeps { sr := SR.trapBits, saved := true } s t :=
  ⟨_, raise_completes _ s (by simp [Exc.savesNext]), enter_entered s (.alignment ea), by simp,
    keeps_enter_alignment _ _ (fun _ h => h) rfl⟩

/-- A jump. -/
theorem jump_result (s : State) (target : Word) : JumpsTo target s (s.jump target) ∧ Keeps {} s (s.jump target) :=
  ⟨⟨rfl, rfl⟩, keeps_jump _ _ _⟩

/-- A jump that links. -/
theorem link_jump_result (s : State) (target : Word) :
    JumpsTo target s (s.link.jump target) ∧ (s.link.jump target).reg 9 = s.pc + 8 ∧ Keeps { regs := [9] } s (s.link.jump target) :=
  ⟨⟨rfl, rfl⟩, by rw [jump_reg]; exact reg_setReg_same s 9 _, (keeps_setReg s _ (by simp [Config.linkReg])).trans (keeps_jump _ _ _)⟩

theorem acc_setAcc (s : State) (v : BitVec 64) : (s.setAcc v).acc = v := by
  rw [State.acc, setAcc_machi, setAcc_maclo]
  apply BitVec.eq_of_getLsbD_eq
  intro i hi
  rw [BitVec.getLsbD_append]
  by_cases h : i < 32
  · simp [h]
  · have e1 : i - 32 < 32 := by omega
    have e2 : 32 + (i - 32) = i := by omega
    simp [h, e1, e2]

end Sys2Proof.Machine
end

