-- ==== Sys2Proof/Laws/Spr.lean ====
section
/-! SUPPORT. Special-purpose registers and the interrupt controller: which SR values a program can write, the bits of PICMR, and when l.mfspr
and l.mtspr complete or are refused. -/

namespace Sys2Proof.Machine

/-- A word that can be written to SR sets modelled fields only (10_state.md R28). -/
theorem notModelled_iff (v : Word) : v &&& srNotModelled = 0 ↔ ∀ i, i ∉ SR.modelled → v.getLsbD i = false := by
  have hb : ∀ i, i < 32 → srNotModelled.getLsbD i = decide (i ∉ SR.modelled) := by decide
  constructor
  · intro h i hi
    by_cases hl : i < 32
    · have h2 : (v &&& srNotModelled).getLsbD i = false := by rw [h]; exact BitVec.getLsbD_zero
      rw [BitVec.getLsbD_and, hb i hl, decide_eq_true hi, Bool.and_true] at h2
      exact h2
    · exact BitVec.getLsbD_of_ge _ _ (by omega)
  · intro h
    apply BitVec.eq_of_getLsbD_eq
    intro i hl
    rw [BitVec.getLsbD_and, hb i hl]
    by_cases hi : i ∈ SR.modelled
    · simp [hi]
    · rw [h i hi]; simp

theorem notModelled_witness (v : Word) :
    (∃ i ∈ List.range 32, i ∉ SR.modelled ∧ v.getLsbD i = true) ↔ v &&& srNotModelled ≠ 0 := by
  rw [Ne, notModelled_iff]
  push Not
  constructor
  · rintro ⟨i, _, h1, h2⟩; exact ⟨i, h1, by simp [h2]⟩
  · rintro ⟨i, h1, h2⟩
    simp only [ne_eq, Bool.not_eq_false] at h2
    exact ⟨i, List.mem_range.mpr (BitVec.lt_of_getLsbD h2), h1, h2⟩

/-! ## The interrupt controller -/

theorem iumWired_bit (b : Build) (j : Nat) (hj : j < 30) : (iumWired b).getLsbD j = decide (j + 2 < b.picInts) := by
  have h4 : (4 : Nat) = 2 ^ 2 := rfl
  rw [iumWired, BitVec.getLsbD_ofNat, h4, ← Nat.shiftRight_eq_div_pow, Nat.testBit_shiftRight, Nat.testBit_two_pow_sub_one]
  simp [hj, Nat.add_comm]

/-- PICMR bit by bit: lines 0 and 1 unmasked, then IUM for the lines that are wired (10_state.md R34). -/
theorem picmr_bit (s : State) (j : Nat) (hj : j < 32) :
    s.picmr.getLsbD j = if j < 2 then true else s.ium.getLsbD (j - 2) && decide (j < s.build.picInts) := by
  rw [State.picmr, BitVec.getLsbD_append]
  by_cases h : j < 2
  · obtain rfl | rfl : j = 0 ∨ j = 1 := by omega
    · rfl
    · rfl
  · have e : j - 2 + 2 = j := by omega
    simp only [h, if_false, BitVec.getLsbD_and, iumWired_bit _ _ (show j - 2 < 30 by omega), e]

/-- The latch (60_exceptions.md R321). -/
theorem sample_picsr (s : State) (h : s.build.hasPic = true) : s.sample.picsr = s.picsr ||| s.nextInput.irq &&& s.picmr := by
  simp [State.sample, h]

theorem sample_picsr_noPic (s : State) (h : s.build.hasPic = false) : s.sample.picsr = s.picsr := by simp [State.sample, h]

/-- The latch clears no bit. -/
theorem sample_picsr_grows (s : State) (j : Nat) (h : s.picsr.getLsbD j = true) : s.sample.picsr.getLsbD j = true := by
  cases hp : s.build.hasPic
  · rw [sample_picsr_noPic s hp, h]
  · rw [sample_picsr s hp, BitVec.getLsbD_or, h, Bool.true_or]

@[simp] theorem sample_picmr (s : State) : s.sample.picmr = s.picmr := rfl
@[simp] theorem sample_inSlot (s : State) : s.sample.inSlot = s.inSlot := rfl
@[simp] theorem sample_resumePc (s : State) : s.sample.resumePc = s.resumePc := rfl

/-! ## l.mfspr and l.mtspr -/

theorem execMfspr_completes {d a : Reg} {k : Half} {s : State} {r : Spr} (hs : s.supervisor = true)
    (hr : s.sprAt (s.sprIndex a k) = .ok r) : execMfspr d a k s = finishReg d (s.readSpr r) s := by
  have hr' : s.sprAt (sprNumber (s.reg a) k) = .ok r := hr
  simp [execMfspr, hs, hr']

theorem execMtspr_completes {a b : Reg} {k : Half} {s u : State} {r : Spr} (hs : s.supervisor = true)
    (hr : s.sprAt (s.sprIndex a k) = .ok r) (hw : s.writeSpr (s.reg b) r = .ok u) : execMtspr a b k s = .next u.advance := by
  have hr' : s.sprAt (sprNumber (s.reg a) k) = .ok r := hr
  simp [execMtspr, hs, hr', hw]

theorem execMtspr_refuses {a b : Reg} {k : Half} {s : State} {r : Spr} {e : Refusal} (hs : s.supervisor = true)
    (hr : s.sprAt (s.sprIndex a k) = .ok r) (hw : s.writeSpr (s.reg b) r = .error e) : execMtspr a b k s = .refused e := by
  have hr' : s.sprAt (sprNumber (s.reg a) k) = .ok r := hr
  simp [execMtspr, hs, hr', hw]

theorem execSpr_unknown {s : State} {a : Reg} {k : Half} {e : Refusal} (hs : s.supervisor = true)
    (hr : s.sprAt (s.sprIndex a k) = .error e) (d b : Reg) : execMfspr d a k s = .refused e ∧ execMtspr a b k s = .refused e := by
  have hr' : s.sprAt (sprNumber (s.reg a) k) = .error e := hr
  exact ⟨by simp [execMfspr, hs, hr'], by simp [execMtspr, hs, hr']⟩

/-- What a write of a special-purpose register never touches. -/
theorem writeSpr_same {s u : State} {v : Word} {r : Spr} (h : s.writeSpr v r = .ok u) : u.regs = s.regs ∧ u.pc = s.pc ∧
    u.delay = s.delay ∧ u.mem = s.mem ∧ u.stored = s.stored ∧ u.memMap = s.memMap ∧ u.build = s.build ∧ u.irq = s.irq ∧
    u.inputs = s.inputs ∧ u.draws = s.draws := by
  cases r <;> simp only [State.writeSpr] at h
  case sr => split at h <;> cases h; simp
  case picsr => unfold State.clearPicsr at h; split at h <;> cases h; simp
  all_goals cases h <;> simp

/-- SR after a write of a special-purpose register: as before, or the value with FO set where the register is SR. -/
theorem writeSpr_sr {s u : State} {v : Word} {r : Spr} (h : s.writeSpr v r = .ok u) :
    u.sr = s.sr ∨ r = .sr ∧ v &&& srNotModelled = 0 ∧ u.sr = setBit v SR.FO true := by
  cases r <;> simp only [State.writeSpr] at h
  case sr =>
    unfold srWritten at h
    by_cases hv : v &&& srNotModelled = 0
    · rw [if_pos hv] at h; cases h; exact .inr ⟨rfl, hv, rfl⟩
    · rw [if_neg hv] at h; cases h
  case picsr => unfold State.clearPicsr at h; split at h <;> cases h; exact .inl rfl
  all_goals cases h <;> exact .inl rfl

/-- IUM after a write of a special-purpose register: as before, or cut to the wired lines. -/
theorem writeSpr_ium {s u : State} {v : Word} {r : Spr} (h : s.writeSpr v r = .ok u) :
    u.ium = s.ium ∨ u.ium = v.extractLsb' 2 30 &&& iumWired s.build := by
  cases r <;> simp only [State.writeSpr] at h
  case sr => split at h <;> cases h; exact .inl rfl
  case picsr => unfold State.clearPicsr at h; split at h <;> cases h; exact .inl rfl
  case picmr => cases h; exact .inr rfl
  all_goals cases h <;> exact .inl rfl

/-- PICSR after a write of a special-purpose register: as before, or by the clear rule where the register is PICSR (60_exceptions.md R322). -/
theorem writeSpr_picsr {s u : State} {v : Word} {r : Spr} (h : s.writeSpr v r = .ok u) :
    u.picsr = s.picsr ∨ r = .picsr ∧ v &&& ~~~s.picsr = 0 ∧ u.picsr = v &&& s.picsr ||| ~~~v &&& (s.irq &&& s.picmr) := by
  cases r <;> simp only [State.writeSpr] at h
  case sr => split at h <;> cases h; exact .inl rfl
  case picsr =>
    unfold State.clearPicsr at h
    by_cases hv : v &&& ~~~s.picsr = 0
    · rw [if_pos hv] at h; cases h; exact .inr ⟨rfl, hv, rfl⟩
    · rw [if_neg hv] at h; cases h
  all_goals cases h <;> exact .inl rfl

theorem ite_some_ne {c : Prop} [Decidable c] {x y : Spr} {r : Option Spr} (h : (if c then some x else r) = some y) (hx : x ≠ y) :
    r = some y := by
  by_cases hc : c
  · rw [if_pos hc] at h; injection h with h; exact absurd h hx
  · rwa [if_neg hc] at h

theorem ite_some_or {c : Prop} [Decidable c] {x y : Spr} {r : Option Spr} (h : (if c then some x else r) = some y) : c ∨ r = some y := by
  by_cases hc : c
  · exact .inl hc
  · rw [if_neg hc] at h; exact .inr h

theorem sprOf_sr {n : BitVec 16} (h : sprOf n = some .sr) : n = 0x0011 := by
  unfold sprOf at h
  have h3 := ite_some_ne (ite_some_ne (ite_some_ne h (by decide)) (by decide)) (by decide)
  rcases ite_some_or h3 with h | h
  · exact h
  · have h7 := ite_some_ne (ite_some_ne (ite_some_ne (ite_some_ne h (by decide)) (by decide)) (by decide)) (by decide)
    have h11 := ite_some_ne (ite_some_ne (ite_some_ne (ite_some_ne h7 (by decide)) (by decide)) (by decide)) (by decide)
    cases h11

theorem sprOf_picsr {n : BitVec 16} (h : sprOf n = some .picsr) : n = 0x4802 := by
  unfold sprOf at h
  have h4 := ite_some_ne (ite_some_ne (ite_some_ne (ite_some_ne h (by decide)) (by decide)) (by decide)) (by decide)
  have h8 := ite_some_ne (ite_some_ne (ite_some_ne (ite_some_ne h4 (by decide)) (by decide)) (by decide)) (by decide)
  have h11 := ite_some_ne (ite_some_ne (ite_some_ne h8 (by decide)) (by decide)) (by decide)
  rcases ite_some_or h11 with h | h
  · exact h
  · cases h

/-- The register a number names, and the PIC's two only where there is a PIC. -/
theorem sprAt_ok {s : State} {n : BitVec 16} {r : Spr} (h : s.sprAt n = .ok r) :
    sprOf n = some r ∧ (r = .picsr → s.build.hasPic = true) := by
  unfold State.sprAt at h
  split at h
  · next e => split at h <;> cases h; exact ⟨e, fun x => by cases x⟩
  · next e =>
    split at h
    · next hp => cases h; exact ⟨e, fun _ => hp⟩
    · cases h
  · next q hq1 hq2 e => cases h; exact ⟨e, fun x => absurd x hq2⟩
  · cases h

/-- Whatever l.mtspr does when it completes: it was in supervisor mode, the number named a register, and the register took the value. -/
theorem ensures_execMtspr {P : State → Prop} {a b : Reg} {k : Half} {s : State}
    (h : s.supervisor = true → ∀ r u, s.sprAt (s.sprIndex a k) = .ok r → s.writeSpr (s.reg b) r = .ok u → P u.advance) :
    Ensures P (execMtspr a b k s) := by
  unfold execMtspr
  refine ensures_ite (fun _ => ensures_refused _) fun hs => ?_
  cases hr : s.sprAt (sprNumber (s.reg a) k) with
  | error e => exact ensures_refused _
  | ok r =>
    dsimp only
    cases hw : s.writeSpr (s.reg b) r with
    | error e => exact ensures_refused _
    | ok u => exact ensures_next (h (by simpa using hs) r u hr hw)

theorem ensures_execMfspr {P : State → Prop} {d a : Reg} {k : Half} {s : State}
    (h : s.supervisor = true → ∀ v, Writable d v → P (s.setReg d v).advance) : Ensures P (execMfspr d a k s) := by
  unfold execMfspr
  refine ensures_ite (fun _ => ensures_refused _) fun hs => ?_
  cases s.sprAt (sprNumber (s.reg a) k) with
  | error e => exact ensures_refused _
  | ok r => exact ensures_finishReg fun hw => h (by simpa using hs) _ hw

end Sys2Proof.Machine
end

