-- ==== Sys2Proof/Laws/Exec.lean ====
section
/-! SUPPORT. Everything an instruction and a step can do, said once. `ensures_exec` is the case analysis over all 84 instructions: a property
of every next state follows from how it fares under the few updates that instructions are made of. `ensures_step` lifts it to a step. -/

namespace Sys2Proof.Machine

/-- A property `M` that the writes of instruction `i` keep, from the state `s` on, and a property `P` of the next state that each way of
ending the instruction turns it into. -/
structure ExecRule (M P : State → Prop) (i : Instr) (s : State) : Prop where
  start : M s
  setReg : ∀ u d v, M u → Writable d v → M (u.setReg d v)
  draw : ∀ u, M u → M u.draw.2
  setCyOv : ∀ u cy ov, M u → M (u.setCyOv cy ov)
  setFlag : ∀ u b, M u → M (u.setSrBit SR.F b)
  setAcc : ∀ u v, M u → M (u.setAcc v)
  setFpFlags : ∀ u f, M u → M (u.setFpFlags f)
  setByte : ∀ u a v, M u → M (u.setByte a v)
  advance : ∀ u, M u → P u.advance
  enter : ∀ u e, M u → (e.savesNext = true → u.delay = none) → P (u.enter e)
  jump : ∀ u target, M u → s.delay = none → (s.pc.toNat % 4 = 0 → target.toNat % 4 = 0) → P (u.jump target)
  rfe : i = .rfe → s.supervisor = true → s.epcr0.toNat % 4 = 0 → s.esr0 &&& srNotModelled = 0 → s.delay = none →
    P { s with sr := setBit s.esr0 SR.FO true, pc := s.epcr0, delay := none }
  mtspr : ∀ a b k, i = .mtspr a b k → s.supervisor = true → ∀ r u, s.sprAt (s.sprIndex a k) = .ok r →
    s.writeSpr (s.reg b) r = .ok u → P u.advance

theorem branchOffset_aligned (pc : Word) (n : BitVec 26) (h : pc.toNat % 4 = 0) : (pc + branchOffset n).toNat % 4 = 0 := by
  have hw : (n ++ 0#2).toNat = 4 * n.toNat := by
    have := BitVec.toNat_append n 0#2
    simp [Nat.shiftLeft_eq] at this
    omega
  have ho : (branchOffset n).toNat % 4 = 0 := by
    have hs := BitVec.toNat_signExtend (n ++ 0#2) (v := 32)
    rw [BitVec.toNat_setWidth] at hs
    change ((n ++ 0#2).signExtend 32).toNat % 4 = 0
    rw [hs]
    split <;> omega
  rw [BitVec.toNat_add]
  omega

theorem pc_add_aligned (pc : Word) (k : Nat) (hk : k % 4 = 0) (h : pc.toNat % 4 = 0) : (pc + BitVec.ofNat 32 k).toNat % 4 = 0 := by
  rw [BitVec.toNat_add, BitVec.toNat_ofNat]
  omega

variable {M P : State → Prop} {i : Instr} {s : State}

theorem ExecRule.raise (h : ExecRule M P i s) {u : State} (hu : M u) (e : Exc) : Ensures P (Machine.raise e u) := by
  unfold Machine.raise
  refine ensures_ite (fun _ => ensures_refused _) fun hn => ensures_next (h.enter u e hu fun he => ?_)
  simpa [he, State.inSlot] using hn

theorem ExecRule.finishReg (h : ExecRule M P i s) {u : State} (hu : M u) (d : Reg) (v : Word) : Ensures P (Machine.finishReg d v u) :=
  ensures_finishReg fun hw => h.advance _ (h.setReg u d v hu hw)

theorem ExecRule.finishFlag (h : ExecRule M P i s) {u : State} (hu : M u) (b : Bool) : Ensures P (Machine.finishFlag b u) :=
  ensures_next (h.advance _ (h.setFlag u b hu))

theorem ExecRule.finishArith (h : ExecRule M P i s) {u : State} (hu : M u) (cy ov r : Bool) :
    Ensures P (Machine.finishArith cy ov r u) :=
  ensures_finishArith (h.advance _ (h.setCyOv u cy ov hu)) (h.enter _ _ (h.setCyOv u cy ov hu) (by simp [Exc.savesNext]))

theorem ExecRule.arith (h : ExecRule M P i s) {u : State} (hu : M u) (d : Reg) (v : Word) (cy ov r : Bool) :
    Ensures P (writeReg d v u (Machine.finishArith cy ov r)) :=
  ensures_writeReg fun hw => h.finishArith (h.setReg u d v hu hw) cy ov r

theorem ExecRule.arithFree (h : ExecRule M P i s) {u : State} (hu : M u) (d : Reg) (cy ov r : Bool) :
    Ensures P (writeRegFree d u (Machine.finishArith cy ov r)) :=
  ensures_writeRegFree fun hd => h.finishArith (h.setReg _ d _ (h.draw u hu) fun e => absurd e hd) cy ov r

theorem ExecRule.access (h : ExecRule M P i s) (n : Nat) (ea : Word) {k : Result} (hk : Ensures P k) :
    Ensures P (withAccess n ea s k) :=
  ensures_withAccess (h.enter s _ h.start (by simp [Exc.savesNext])) fun _ _ => hk

theorem ExecRule.load (h : ExecRule M P i s) (n : Nat) (d : Reg) (ea : Word) (value : (Word → Byte) → Word) :
    Ensures P (loadInto n d ea value s) :=
  ensures_loadInto (h.enter s _ h.start (by simp [Exc.savesNext])) (fun v hw => h.advance _ (h.setReg s d v h.start hw))
    fun v hw => h.advance _ (h.setReg _ d v (h.draw s h.start) hw)

theorem ExecRule.link (h : ExecRule M P i s) : M s.link := h.setReg s _ _ h.start fun e => absurd e (by decide)

theorem ExecRule.jumpRegister (h : ExecRule M P i s) {after : State} (ha : M after) (t : Word) (hd : s.delay = none) :
    Ensures P (Machine.jumpRegister t after s) := by
  unfold Machine.jumpRegister
  refine ensures_ite (fun _ => h.raise h.start _) fun hn => ensures_next (h.jump after t ha hd fun _ => ?_)
  simpa [alignedTo] using hn

theorem ExecRule.branch (h : ExecRule M P i s) (c : Bool) (n : BitVec 26) : Ensures P (branchIf c n s) := by
  refine ensures_outsideSlot fun hd => ensures_next (h.jump s _ h.start hd fun hp => ?_)
  cases c
  · exact pc_add_aligned s.pc 8 rfl hp
  · exact branchOffset_aligned s.pc n hp

theorem ExecRule.unsignedCompare (h : ExecRule M P i s) (imm : Half) (b : Bool) : Ensures P (unsignedCompareImm imm b s) :=
  ensures_ite (fun _ => ensures_refused _) fun _ => h.finishFlag h.start b

theorem ExecRule.finishFloat (h : ExecRule M P i s) {u : State} (hu : M u) (f : BitVec 9) : Ensures P (Machine.finishFloat f u) := by
  unfold Machine.finishFloat
  exact ensures_ite (fun _ => h.raise (h.setFpFlags u f hu) _) fun _ => ensures_next (h.advance _ (h.setFpFlags u f hu))

/-- Every next state of every instruction has the property `P`. -/
theorem ensures_exec (h : ExecRule M P i s) : Ensures P (exec i s) := by
  cases i with
  | add d a b => exact h.arith h.start d _ _ _ _
  | addc d a b => exact h.arith h.start d _ _ _ _
  | addi d a i => exact h.arith h.start d _ _ _ _
  | addic d a i => exact h.arith h.start d _ _ _ _
  | sub d a b => exact h.arith h.start d _ _ _ _
  | mul d a b => exact h.arith h.start d _ _ _ _
  | muli d a i => exact h.arith h.start d _ _ _ _
  | mulu d a b => exact h.arith h.start d _ _ _ _
  | div d a b => exact ensures_ite (fun _ => h.arithFree h.start d _ _ _) fun _ => h.arith h.start d _ _ _ _
  | divu d a b => exact ensures_ite (fun _ => h.arithFree h.start d _ _ _) fun _ => h.arith h.start d _ _ _ _
  | ff1 d a => exact h.finishReg h.start d _
  | fl1 d a => exact h.finishReg h.start d _
  | xori d a k => exact h.finishReg h.start d _
  | movhi d k => exact h.finishReg h.start d _
  | and d a b => exact h.finishReg h.start d _
  | or d a b => exact h.finishReg h.start d _
  | xor d a b => exact h.finishReg h.start d _
  | cmov d a b => exact h.finishReg h.start d _
  | andi d a k => exact h.finishReg h.start d _
  | ori d a k => exact h.finishReg h.start d _
  | sll d a b => exact h.finishReg h.start d _
  | srl d a b => exact h.finishReg h.start d _
  | sra d a b => exact h.finishReg h.start d _
  | ror d a b => exact h.finishReg h.start d _
  | slli d a l => exact h.finishReg h.start d _
  | srli d a l => exact h.finishReg h.start d _
  | srai d a l => exact h.finishReg h.start d _
  | rori d a l => exact h.finishReg h.start d _
  | exths d a => exact h.finishReg h.start d _
  | extbs d a => exact h.finishReg h.start d _
  | exthz d a => exact h.finishReg h.start d _
  | extbz d a => exact h.finishReg h.start d _
  | extws d a => exact h.finishReg h.start d _
  | extwz d a => exact h.finishReg h.start d _
  | maci a i => exact ensures_next (h.advance _ (h.setAcc s _ h.start))
  | mac a b => exact ensures_next (h.advance _ (h.setAcc s _ h.start))
  | msb a b => exact ensures_next (h.advance _ (h.setAcc s _ h.start))
  | macrc d =>
    exact ensures_writeReg (k := fun t => .next (t.setAcc 0).advance) fun hw => ensures_next (h.advance _ (h.setAcc _ _ (h.setReg s d _ h.start hw)))
  | jr b => exact ensures_outsideSlot fun hd => h.jumpRegister h.start _ hd
  | jalr b =>
    exact ensures_outsideSlot fun hd => ensures_ite (fun _ => h.raise h.start _) fun _ => h.jumpRegister h.link _ hd
  | maddS d a b =>
    exact ensures_ite (fun _ => ensures_writeReg fun hw => h.finishFloat (h.setReg s d _ h.start hw) _) fun _ => h.raise h.start _
  | maddD d a b => exact h.raise h.start .illegal
  | j n =>
    exact ensures_outsideSlot fun hd => ensures_next (h.jump s _ h.start hd (branchOffset_aligned s.pc n))
  | jal n =>
    exact ensures_outsideSlot fun hd => ensures_next (h.jump s.link _ h.link hd (branchOffset_aligned s.pc n))
  | bnf n => exact h.branch _ n
  | bf n => exact h.branch _ n
  | nop k => exact ensures_next (h.advance s h.start)
  | msync => exact ensures_next (h.advance s h.start)
  | psync => exact ensures_next (h.advance s h.start)
  | csync => exact ensures_next (h.advance s h.start)
  | sys k => exact h.raise h.start .syscall
  | trap k => exact h.raise h.start .trap
  | rfe => exact ensures_returnFromException (h.rfe rfl)
  | lwz d a i => unfold exec execLwz; exact h.load 4 d _ _
  | lws d a i => unfold exec execLws; exact h.load 4 d _ _
  | lbz d a i => unfold exec execLbz; exact h.load 1 d _ _
  | lbs d a i => unfold exec execLbs; exact h.load 1 d _ _
  | lhz d a i => unfold exec execLhz; exact h.load 2 d _ _
  | lhs d a i => unfold exec execLhs; exact h.load 2 d _ _
  | mfspr d a k => exact ensures_execMfspr fun _ v hw => h.advance _ (h.setReg s d v h.start hw)
  | mtspr a b k => exact ensures_execMtspr fun hs r u hr hw => h.mtspr a b k rfl hs r u hr hw
  | sw a b i =>
    exact h.access 4 _ (ensures_next (h.advance _
      (h.setByte _ _ _ (h.setByte _ _ _ (h.setByte _ _ _ (h.setByte _ _ _ h.start))))))
  | sb a b i => exact h.access 1 _ (ensures_next (h.advance _ (h.setByte _ _ _ h.start)))
  | sh a b i => exact h.access 2 _ (ensures_next (h.advance _ (h.setByte _ _ _ (h.setByte _ _ _ h.start))))
  | sfeq a b => exact h.finishFlag h.start _
  | sfne a b => exact h.finishFlag h.start _
  | sfgtu a b => exact h.finishFlag h.start _
  | sfgeu a b => exact h.finishFlag h.start _
  | sfltu a b => exact h.finishFlag h.start _
  | sfleu a b => exact h.finishFlag h.start _
  | sfgts a b => exact h.finishFlag h.start _
  | sfges a b => exact h.finishFlag h.start _
  | sflts a b => exact h.finishFlag h.start _
  | sfles a b => exact h.finishFlag h.start _
  | sfeqi a i => exact h.finishFlag h.start _
  | sfnei a i => exact h.finishFlag h.start _
  | sfgtui a i => exact h.unsignedCompare i _
  | sfgeui a i => exact h.unsignedCompare i _
  | sfltui a i => exact h.unsignedCompare i _
  | sfleui a i => exact h.unsignedCompare i _
  | sfgtsi a i => exact h.finishFlag h.start _
  | sfgesi a i => exact h.finishFlag h.start _
  | sfltsi a i => exact h.finishFlag h.start _
  | sflesi a i => exact h.finishFlag h.start _

/-! ## The step -/

/-- The word at `pc` is the word its four bytes make. -/
theorem decodeBytes_fetchBytes (s : State) : decodeBytes s.fetchBytes = (decodeWord (s.load4 s.pc)).map (·, []) := by
  have e0 : s.pc + BitVec.ofNat 32 0 = s.pc := by simp
  simp only [State.fetchBytes, span, List.range, List.range.loop, List.map_cons, List.map_nil, decodeBytes, e0, State.load4]
  rfl

theorem fetchable_iff (s : State) : s.fetchable ↔ s.isMemory s.pc 4 = true ∧ s.fetchesStored = false := by
  simp only [State.fetchable, isMemory_iff, State.fetchesStored, List.any_eq_false, List.contains_iff_mem]
  exact ⟨fun h => ⟨fun x hx => (h x hx).1, fun x hx => (h x hx).2⟩, fun h x hx => ⟨h.1 x hx, h.2 x hx⟩⟩

/-- A fetchable word is decoded. -/
theorem fetchInstr_of_fetchable {s : State} (h : s.fetchable) :
    s.fetchInstr = match decodeWord (s.load4 s.pc) with
      | .ok i => .ok i
      | .error e => .error (undecoded e s) := by
  have hm : s.isMemory s.pc 4 = true := (isMemory_iff _ _ _).mpr fun x hx => (h x hx).1
  have hs : s.fetchesStored = false := by
    simp only [State.fetchesStored, List.any_eq_false, List.contains_iff_mem]
    exact fun x hx => (h x hx).2
  simp only [State.fetchInstr, isMapped_of_isMemory hm, hm, hs, decodeBytes_fetchBytes]
  cases decodeWord (s.load4 s.pc) <;> rfl

theorem fetchInstr_ok {s : State} {i : Instr} (h : s.fetchInstr = .ok i) : s.fetchable ∧ decodeWord (s.load4 s.pc) = .ok i := by
  unfold State.fetchInstr at h
  by_cases hm : s.isMemory s.pc 4 = true
  · by_cases hs : s.fetchesStored = true
    · simp [isMapped_of_isMemory hm, hm, hs] at h
    · simp only [isMapped_of_isMemory hm, hm, hs, decodeBytes_fetchBytes, Bool.not_true, Bool.false_eq_true, if_false] at h
      refine ⟨fun x hx => ⟨(isMemory_iff _ _ _).mp hm x hx, fun hc => hs ?_⟩, ?_⟩
      · simp only [State.fetchesStored, List.any_eq_true, List.contains_iff_mem]
        exact ⟨x, hx, hc⟩
      · cases hd : decodeWord (s.load4 s.pc) with
        | ok j => rw [hd] at h; injection h with h; rw [h]
        | error e => rw [hd] at h; cases h
  · by_cases hk : s.isMapped s.pc 4 = true <;> simp [hk, hm] at h

/-- A fetch that ends the step with a next state has raised Illegal Instruction. -/
theorem fetchInstr_error_next {s t : State} (h : s.fetchInstr = .error (.next t)) : t = s.enter .illegal := by
  have hu : ∀ e, undecoded e s = .next t → t = s.enter .illegal := by
    intro e he
    unfold undecoded at he
    split at he <;> cases he <;> rfl
  unfold State.fetchInstr at h
  split at h
  · cases h
  · split at h
    · cases h
    · split at h
      · cases h
      · split at h
        · cases h
        · injection h with h; exact hu _ h

@[simp] theorem sample_kindAt (s : State) (a : Word) : s.sample.kindAt a = s.kindAt a := rfl
@[simp] theorem sample_load4 (s : State) (a : Word) : s.sample.load4 a = s.load4 a := rfl
theorem sample_fetchable (s : State) : s.sample.fetchable ↔ s.fetchable := Iff.rfl

/-- A step without an interrupt whose word decodes runs the instruction. -/
theorem step_runs {s : State} {i : Instr} (hd : decodeWord (s.load4 s.pc) = .ok i) (hn : s.noInterrupt) (hf : s.fetchable) :
    step s = exec i s.sample := by
  unfold step
  rw [hn]
  dsimp only
  rw [fetchInstr_of_fetchable ((sample_fetchable s).mpr hf)]
  change (match (match decodeWord (s.load4 s.pc) with | .ok i => Except.ok i | .error e => .error (undecoded e s.sample)) with
    | .error r => r | .ok i => exec i s.sample) = _
  rw [hd]

/-- A step without an interrupt whose word is fetched and does not decode. -/
theorem step_undecoded {s : State} {e : DecodeError} (hd : decodeWord (s.load4 s.pc) = .error e) (hn : s.noInterrupt)
    (hf : s.fetchable) : step s = undecoded e s.sample := by
  unfold step
  rw [hn]
  dsimp only
  rw [fetchInstr_of_fetchable ((sample_fetchable s).mpr hf)]
  change (match (match decodeWord (s.load4 s.pc) with | .ok i => Except.ok i | .error e => .error (undecoded e s.sample)) with
    | .error r => r | .ok i => exec i s.sample) = _
  rw [hd]

/-- Everything a step can do: take an interrupt, raise Illegal Instruction for a word without an instruction, or run an instruction. -/
theorem ensures_step {P : State → Prop} {s : State} (hi : P (s.sample.enter .interrupt)) (hu : P (s.sample.enter .illegal))
    (he : ∀ i, decodeWord (s.load4 s.pc) = .ok i → Ensures P (exec i s.sample)) : Ensures P (step s) := by
  unfold step
  split
  · exact ensures_raise hi
  · exact ensures_refused _
  · cases hf : s.sample.fetchInstr with
    | ok i => exact he i (fetchInstr_ok hf).2
    | error r =>
      dsimp only
      intro t ht
      rw [fetchInstr_error_next (hf.trans (congrArg _ ht))]
      exact hu

end Sys2Proof.Machine
end

