-- ==== Sys2Proof/Laws/Flags.lean ====
section
/-! SUPPORT. What the values of Flags.lean are: the operations of BitVec they agree with, and the exact integers behind the flags. -/

namespace Sys2Proof.Machine

theorem outsideSigned_iff (n : Int) : outsideSigned n = true ↔ SignedOverflow n := by simp [outsideSigned, SignedOverflow]

theorem outsideUnsigned_iff (n : Nat) : outsideUnsigned n = true ↔ 4294967296 ≤ n := decide_eq_true_iff

theorem addResult_eq (x y : Word) (c : Bool) : addResult x y c = x + y + (BitVec.ofBool c).setWidth 32 := by
  apply BitVec.eq_of_toNat_eq
  cases c <;> simp [addResult, sumU]

theorem subResult_eq (x y : Word) : subResult x y = x - y := by
  apply BitVec.eq_of_toInt_eq
  rw [subResult, BitVec.toInt_ofInt, BitVec.toInt_sub, BitVec.toInt_eq_toNat_bmod, BitVec.toInt_eq_toNat_bmod]
  simp

theorem mulResult_eq (x y : Word) : mulResult x y = x * y := by
  apply BitVec.eq_of_toInt_eq
  rw [mulResult, BitVec.toInt_ofInt, BitVec.toInt_mul]

/-- The carry of a signed product is the build's `MUL_CARRY`. -/
theorem mulCarry_iff (s : State) (x y : Word) : mulCarry s.build x y = true ↔ s.MulCarries x y := by
  unfold mulCarry State.MulCarries
  cases s.build.mulCarry
  · exact outsideUnsigned_iff _
  · exact Iff.rfl

theorem muluResult_eq (x y : Word) : muluResult x y = x * y := by
  apply BitVec.eq_of_toNat_eq; simp [muluResult]

/-- A signed word as a natural number and its sign. -/
theorem toInt_cases (x : Word) : x.toInt = if x.toNat < 2147483648 then (x.toNat : Int) else x.toNat - 4294967296 := by
  rw [BitVec.toInt_eq_toNat_cond]; split <;> split <;> omega

end Sys2Proof.Machine
end

