-- ==== Sys2Proof/Laws/PerInstr.lean ====
section
/-! SUPPORT. Per instruction: the word that `encode` gives it selects a row of the table, has no reserved bit set, and that row reads the
instruction back from it, every operand included. -/

namespace Sys2Proof

/-- The word of the instruction selects a row of the opcode table, sets none of the row's reserved bits, and the row builds the instruction
from it. -/
def Laws.SelectsRow.Statement (i : Instr) : Prop :=
  i.wellFormed = true → ∃ r ∈ table, r.selects (encode i) = true ∧ encode i &&& r.reserved = 0 ∧ r.build (encode i) = i

namespace Laws.SelectsRow

set_option Elab.async false

theorem mem_of_tableRRR {r : Row} (h : r ∈ tableRRR) : r ∈ table := by
  simp only [table, List.mem_append]; tauto
theorem mem_of_tableRRI {r : Row} (h : r ∈ tableRRI) : r ∈ table := by
  simp only [table, List.mem_append]; tauto
theorem mem_of_tableJump {r : Row} (h : r ∈ tableJump) : r ∈ table := by
  simp only [table, List.mem_append]; tauto
theorem mem_of_tableSystem {r : Row} (h : r ∈ tableSystem) : r ∈ table := by
  simp only [table, List.mem_append]; tauto
theorem mem_of_tableStore {r : Row} (h : r ∈ tableStore) : r ∈ table := by
  simp only [table, List.mem_append]; tauto
theorem mem_of_tableShift {r : Row} (h : r ∈ tableShift) : r ∈ table := by
  simp only [table, List.mem_append]; tauto
theorem mem_of_tableCompare {r : Row} (h : r ∈ tableCompare) : r ∈ table := by
  simp only [table, List.mem_append]; tauto
theorem mem_of_tableCompareImm {r : Row} (h : r ∈ tableCompareImm) : r ∈ table := by
  simp only [table, List.mem_append]; tauto

theorem add (d a b : Reg) : Statement (.add d a b) := by
  intro _
  refine ⟨rowAdd, mem_of_tableRRR (List.mem_of_getElem? (i := 0) rfl), ?_, ?_, ?_⟩
  · simp (disch := decide) only [Row.selects, rowAdd, encode, or_and_mask, putD_mask, putA_mask, putB_mask]; decide
  · simp (disch := decide) only [rowAdd, encode, or_and_mask, putD_mask, putA_mask, putB_mask]; decide
  · simp [rowAdd, encode]

theorem addc (d a b : Reg) : Statement (.addc d a b) := by
  intro _
  refine ⟨rowAddc, mem_of_tableRRR (List.mem_of_getElem? (i := 1) rfl), ?_, ?_, ?_⟩
  · simp (disch := decide) only [Row.selects, rowAddc, encode, or_and_mask, putD_mask, putA_mask, putB_mask]; decide
  · simp (disch := decide) only [rowAddc, encode, or_and_mask, putD_mask, putA_mask, putB_mask]; decide
  · simp [rowAddc, encode]

theorem mul (d a b : Reg) : Statement (.mul d a b) := by
  intro _
  refine ⟨rowMul, mem_of_tableRRR (List.mem_of_getElem? (i := 2) rfl), ?_, ?_, ?_⟩
  · simp (disch := decide) only [Row.selects, rowMul, encode, or_and_mask, putD_mask, putA_mask, putB_mask]; decide
  · simp (disch := decide) only [rowMul, encode, or_and_mask, putD_mask, putA_mask, putB_mask]; decide
  · simp [rowMul, encode]

theorem div (d a b : Reg) : Statement (.div d a b) := by
  intro _
  refine ⟨rowDiv, mem_of_tableRRR (List.mem_of_getElem? (i := 3) rfl), ?_, ?_, ?_⟩
  · simp (disch := decide) only [Row.selects, rowDiv, encode, or_and_mask, putD_mask, putA_mask, putB_mask]; decide
  · simp (disch := decide) only [rowDiv, encode, or_and_mask, putD_mask, putA_mask, putB_mask]; decide
  · simp [rowDiv, encode]

theorem divu (d a b : Reg) : Statement (.divu d a b) := by
  intro _
  refine ⟨rowDivu, mem_of_tableRRR (List.mem_of_getElem? (i := 4) rfl), ?_, ?_, ?_⟩
  · simp (disch := decide) only [Row.selects, rowDivu, encode, or_and_mask, putD_mask, putA_mask, putB_mask]; decide
  · simp (disch := decide) only [rowDivu, encode, or_and_mask, putD_mask, putA_mask, putB_mask]; decide
  · simp [rowDivu, encode]

theorem mulu (d a b : Reg) : Statement (.mulu d a b) := by
  intro _
  refine ⟨rowMulu, mem_of_tableRRR (List.mem_of_getElem? (i := 5) rfl), ?_, ?_, ?_⟩
  · simp (disch := decide) only [Row.selects, rowMulu, encode, or_and_mask, putD_mask, putA_mask, putB_mask]; decide
  · simp (disch := decide) only [rowMulu, encode, or_and_mask, putD_mask, putA_mask, putB_mask]; decide
  · simp [rowMulu, encode]

theorem ff1 (d a : Reg) : Statement (.ff1 d a) := by
  intro _
  refine ⟨rowFf1, mem_of_tableRRR (List.mem_of_getElem? (i := 6) rfl), ?_, ?_, ?_⟩
  · simp (disch := decide) only [Row.selects, rowFf1, encode, or_and_mask, putD_mask, putA_mask]; decide
  · simp (disch := decide) only [rowFf1, encode, or_and_mask, putD_mask, putA_mask]; decide
  · simp [rowFf1, encode]

theorem fl1 (d a : Reg) : Statement (.fl1 d a) := by
  intro _
  refine ⟨rowFl1, mem_of_tableRRR (List.mem_of_getElem? (i := 7) rfl), ?_, ?_, ?_⟩
  · simp (disch := decide) only [Row.selects, rowFl1, encode, or_and_mask, putD_mask, putA_mask]; decide
  · simp (disch := decide) only [rowFl1, encode, or_and_mask, putD_mask, putA_mask]; decide
  · simp [rowFl1, encode]

theorem addi (d a : Reg) (i : Half) : Statement (.addi d a i) := by
  intro _
  refine ⟨rowAddi, mem_of_tableRRI (List.mem_of_getElem? (i := 0) rfl), ?_, ?_, ?_⟩
  · simp (disch := decide) only [Row.selects, rowAddi, encode, or_and_mask, putD_mask, putA_mask, putImm_mask]; decide
  · simp (disch := decide) only [rowAddi, encode, or_and_mask, putD_mask, putA_mask, putImm_mask]; decide
  · simp [rowAddi, encode]

theorem addic (d a : Reg) (i : Half) : Statement (.addic d a i) := by
  intro _
  refine ⟨rowAddic, mem_of_tableRRI (List.mem_of_getElem? (i := 1) rfl), ?_, ?_, ?_⟩
  · simp (disch := decide) only [Row.selects, rowAddic, encode, or_and_mask, putD_mask, putA_mask, putImm_mask]; decide
  · simp (disch := decide) only [rowAddic, encode, or_and_mask, putD_mask, putA_mask, putImm_mask]; decide
  · simp [rowAddic, encode]

theorem xori (d a : Reg) (k : Half) : Statement (.xori d a k) := by
  intro _
  refine ⟨rowXori, mem_of_tableRRI (List.mem_of_getElem? (i := 2) rfl), ?_, ?_, ?_⟩
  · simp (disch := decide) only [Row.selects, rowXori, encode, or_and_mask, putD_mask, putA_mask, putImm_mask]; decide
  · simp (disch := decide) only [rowXori, encode, or_and_mask, putD_mask, putA_mask, putImm_mask]; decide
  · simp [rowXori, encode]

theorem muli (d a : Reg) (i : Half) : Statement (.muli d a i) := by
  intro _
  refine ⟨rowMuli, mem_of_tableRRI (List.mem_of_getElem? (i := 3) rfl), ?_, ?_, ?_⟩
  · simp (disch := decide) only [Row.selects, rowMuli, encode, or_and_mask, putD_mask, putA_mask, putImm_mask]; decide
  · simp (disch := decide) only [rowMuli, encode, or_and_mask, putD_mask, putA_mask, putImm_mask]; decide
  · simp [rowMuli, encode]

theorem maci (a : Reg) (i : Half) : Statement (.maci a i) := by
  intro _
  refine ⟨rowMaci, mem_of_tableJump (List.mem_of_getElem? (i := 0) rfl), ?_, ?_, ?_⟩
  · simp (disch := decide) only [Row.selects, rowMaci, encode, or_and_mask, putA_mask, putImm_mask]; decide
  · simp (disch := decide) only [rowMaci, encode, or_and_mask, putA_mask, putImm_mask]; decide
  · simp [rowMaci, encode]

theorem jr (b : Reg) : Statement (.jr b) := by
  intro _
  refine ⟨rowJr, mem_of_tableJump (List.mem_of_getElem? (i := 1) rfl), ?_, ?_, ?_⟩
  · simp (disch := decide) only [Row.selects, rowJr, encode, or_and_mask, putB_mask]; decide
  · simp (disch := decide) only [rowJr, encode, or_and_mask, putB_mask]; decide
  · simp [rowJr, encode]

theorem jalr (b : Reg) : Statement (.jalr b) := by
  intro _
  refine ⟨rowJalr, mem_of_tableJump (List.mem_of_getElem? (i := 2) rfl), ?_, ?_, ?_⟩
  · simp (disch := decide) only [Row.selects, rowJalr, encode, or_and_mask, putB_mask]; decide
  · simp (disch := decide) only [rowJalr, encode, or_and_mask, putB_mask]; decide
  · simp [rowJalr, encode]

theorem maddS (d a b : Reg) : Statement (.maddS d a b) := by
  intro _
  refine ⟨rowMaddS, mem_of_tableJump (List.mem_of_getElem? (i := 3) rfl), ?_, ?_, ?_⟩
  · simp (disch := decide) only [Row.selects, rowMaddS, encode, or_and_mask, putD_mask, putA_mask, putB_mask]; decide
  · simp (disch := decide) only [rowMaddS, encode, or_and_mask, putD_mask, putA_mask, putB_mask]; decide
  · simp [rowMaddS, encode]

theorem maddD (d a b : Reg) : Statement (.maddD d a b) := by
  intro _
  refine ⟨rowMaddD, mem_of_tableJump (List.mem_of_getElem? (i := 4) rfl), ?_, ?_, ?_⟩
  · simp (disch := decide) only [Row.selects, rowMaddD, encode, or_and_mask, putD_mask, putA_mask, putB_mask]; decide
  · simp (disch := decide) only [rowMaddD, encode, or_and_mask, putD_mask, putA_mask, putB_mask]; decide
  · simp [rowMaddD, encode]

theorem j (n : BitVec 26) : Statement (.j n) := by
  intro _
  refine ⟨rowJ, mem_of_tableJump (List.mem_of_getElem? (i := 5) rfl), ?_, ?_, ?_⟩
  · simp (disch := decide) only [Row.selects, rowJ, encode, or_and_mask, putN_mask]; decide
  · simp (disch := decide) only [rowJ, encode, or_and_mask, putN_mask]; decide
  · simp [rowJ, encode]

theorem jal (n : BitVec 26) : Statement (.jal n) := by
  intro _
  refine ⟨rowJal, mem_of_tableJump (List.mem_of_getElem? (i := 6) rfl), ?_, ?_, ?_⟩
  · simp (disch := decide) only [Row.selects, rowJal, encode, or_and_mask, putN_mask]; decide
  · simp (disch := decide) only [rowJal, encode, or_and_mask, putN_mask]; decide
  · simp [rowJal, encode]

theorem bnf (n : BitVec 26) : Statement (.bnf n) := by
  intro _
  refine ⟨rowBnf, mem_of_tableJump (List.mem_of_getElem? (i := 7) rfl), ?_, ?_, ?_⟩
  · simp (disch := decide) only [Row.selects, rowBnf, encode, or_and_mask, putN_mask]; decide
  · simp (disch := decide) only [rowBnf, encode, or_and_mask, putN_mask]; decide
  · simp [rowBnf, encode]

theorem bf (n : BitVec 26) : Statement (.bf n) := by
  intro _
  refine ⟨rowBf, mem_of_tableJump (List.mem_of_getElem? (i := 8) rfl), ?_, ?_, ?_⟩
  · simp (disch := decide) only [Row.selects, rowBf, encode, or_and_mask, putN_mask]; decide
  · simp (disch := decide) only [rowBf, encode, or_and_mask, putN_mask]; decide
  · simp [rowBf, encode]

theorem nop (k : Half) : Statement (.nop k) := by
  intro _
  refine ⟨rowNop, mem_of_tableSystem (List.mem_of_getElem? (i := 0) rfl), ?_, ?_, ?_⟩
  · simp (disch := decide) only [Row.selects, rowNop, encode, or_and_mask, putImm_mask]; decide
  · simp (disch := decide) only [rowNop, encode, or_and_mask, putImm_mask]; decide
  · simp [rowNop, encode]

theorem movhi (d : Reg) (k : Half) : Statement (.movhi d k) := by
  intro _
  refine ⟨rowMovhi, mem_of_tableSystem (List.mem_of_getElem? (i := 1) rfl), ?_, ?_, ?_⟩
  · simp (disch := decide) only [Row.selects, rowMovhi, encode, or_and_mask, putD_mask, putImm_mask]; decide
  · simp (disch := decide) only [rowMovhi, encode, or_and_mask, putD_mask, putImm_mask]; decide
  · simp [rowMovhi, encode]

theorem macrc (d : Reg) : Statement (.macrc d) := by
  intro _
  refine ⟨rowMacrc, mem_of_tableSystem (List.mem_of_getElem? (i := 2) rfl), ?_, ?_, ?_⟩
  · simp (disch := decide) only [Row.selects, rowMacrc, encode, or_and_mask, putD_mask]; decide
  · simp (disch := decide) only [rowMacrc, encode, or_and_mask, putD_mask]; decide
  · simp [rowMacrc, encode]

theorem sys (k : Half) : Statement (.sys k) := by
  intro _
  refine ⟨rowSys, mem_of_tableSystem (List.mem_of_getElem? (i := 3) rfl), ?_, ?_, ?_⟩
  · simp (disch := decide) only [Row.selects, rowSys, encode, or_and_mask, putImm_mask]; decide
  · simp (disch := decide) only [rowSys, encode, or_and_mask, putImm_mask]; decide
  · simp [rowSys, encode]

theorem trap (k : Half) : Statement (.trap k) := by
  intro _
  refine ⟨rowTrap, mem_of_tableSystem (List.mem_of_getElem? (i := 4) rfl), ?_, ?_, ?_⟩
  · simp (disch := decide) only [Row.selects, rowTrap, encode, or_and_mask, putImm_mask]; decide
  · simp (disch := decide) only [rowTrap, encode, or_and_mask, putImm_mask]; decide
  · simp [rowTrap, encode]

theorem msync : Statement .msync := by
  intro _
  refine ⟨rowMsync, mem_of_tableSystem (List.mem_of_getElem? (i := 5) rfl), ?_, ?_, ?_⟩
  · decide
  · decide
  · rfl

theorem psync : Statement .psync := by
  intro _
  refine ⟨rowPsync, mem_of_tableSystem (List.mem_of_getElem? (i := 6) rfl), ?_, ?_, ?_⟩
  · decide
  · decide
  · rfl

theorem csync : Statement .csync := by
  intro _
  refine ⟨rowCsync, mem_of_tableSystem (List.mem_of_getElem? (i := 7) rfl), ?_, ?_, ?_⟩
  · decide
  · decide
  · rfl

theorem rfe : Statement .rfe := by
  intro _
  refine ⟨rowRfe, mem_of_tableSystem (List.mem_of_getElem? (i := 8) rfl), ?_, ?_, ?_⟩
  · decide
  · decide
  · rfl

theorem lwz (d a : Reg) (i : Half) : Statement (.lwz d a i) := by
  intro _
  refine ⟨rowLwz, mem_of_tableRRI (List.mem_of_getElem? (i := 4) rfl), ?_, ?_, ?_⟩
  · simp (disch := decide) only [Row.selects, rowLwz, encode, or_and_mask, putD_mask, putA_mask, putImm_mask]; decide
  · simp (disch := decide) only [rowLwz, encode, or_and_mask, putD_mask, putA_mask, putImm_mask]; decide
  · simp [rowLwz, encode]

theorem lws (d a : Reg) (i : Half) : Statement (.lws d a i) := by
  intro _
  refine ⟨rowLws, mem_of_tableRRI (List.mem_of_getElem? (i := 5) rfl), ?_, ?_, ?_⟩
  · simp (disch := decide) only [Row.selects, rowLws, encode, or_and_mask, putD_mask, putA_mask, putImm_mask]; decide
  · simp (disch := decide) only [rowLws, encode, or_and_mask, putD_mask, putA_mask, putImm_mask]; decide
  · simp [rowLws, encode]

theorem lbz (d a : Reg) (i : Half) : Statement (.lbz d a i) := by
  intro _
  refine ⟨rowLbz, mem_of_tableRRI (List.mem_of_getElem? (i := 6) rfl), ?_, ?_, ?_⟩
  · simp (disch := decide) only [Row.selects, rowLbz, encode, or_and_mask, putD_mask, putA_mask, putImm_mask]; decide
  · simp (disch := decide) only [rowLbz, encode, or_and_mask, putD_mask, putA_mask, putImm_mask]; decide
  · simp [rowLbz, encode]

theorem lbs (d a : Reg) (i : Half) : Statement (.lbs d a i) := by
  intro _
  refine ⟨rowLbs, mem_of_tableRRI (List.mem_of_getElem? (i := 7) rfl), ?_, ?_, ?_⟩
  · simp (disch := decide) only [Row.selects, rowLbs, encode, or_and_mask, putD_mask, putA_mask, putImm_mask]; decide
  · simp (disch := decide) only [rowLbs, encode, or_and_mask, putD_mask, putA_mask, putImm_mask]; decide
  · simp [rowLbs, encode]

theorem lhz (d a : Reg) (i : Half) : Statement (.lhz d a i) := by
  intro _
  refine ⟨rowLhz, mem_of_tableRRI (List.mem_of_getElem? (i := 8) rfl), ?_, ?_, ?_⟩
  · simp (disch := decide) only [Row.selects, rowLhz, encode, or_and_mask, putD_mask, putA_mask, putImm_mask]; decide
  · simp (disch := decide) only [rowLhz, encode, or_and_mask, putD_mask, putA_mask, putImm_mask]; decide
  · simp [rowLhz, encode]

theorem lhs (d a : Reg) (i : Half) : Statement (.lhs d a i) := by
  intro _
  refine ⟨rowLhs, mem_of_tableRRI (List.mem_of_getElem? (i := 9) rfl), ?_, ?_, ?_⟩
  · simp (disch := decide) only [Row.selects, rowLhs, encode, or_and_mask, putD_mask, putA_mask, putImm_mask]; decide
  · simp (disch := decide) only [rowLhs, encode, or_and_mask, putD_mask, putA_mask, putImm_mask]; decide
  · simp [rowLhs, encode]

theorem mfspr (d a : Reg) (k : Half) : Statement (.mfspr d a k) := by
  intro _
  refine ⟨rowMfspr, mem_of_tableRRI (List.mem_of_getElem? (i := 10) rfl), ?_, ?_, ?_⟩
  · simp (disch := decide) only [Row.selects, rowMfspr, encode, or_and_mask, putD_mask, putA_mask, putImm_mask]; decide
  · simp (disch := decide) only [rowMfspr, encode, or_and_mask, putD_mask, putA_mask, putImm_mask]; decide
  · simp [rowMfspr, encode]

theorem mtspr (a b : Reg) (k : Half) : Statement (.mtspr a b k) := by
  intro _
  refine ⟨rowMtspr, mem_of_tableStore (List.mem_of_getElem? (i := 0) rfl), ?_, ?_, ?_⟩
  · simp (disch := decide) only [Row.selects, rowMtspr, encode, or_and_mask, putA_mask, putB_mask, putSplit_mask]; decide
  · simp (disch := decide) only [rowMtspr, encode, or_and_mask, putA_mask, putB_mask, putSplit_mask]; decide
  · simp [rowMtspr, encode]

theorem sw (a b : Reg) (i : Half) : Statement (.sw a b i) := by
  intro _
  refine ⟨rowSw, mem_of_tableStore (List.mem_of_getElem? (i := 1) rfl), ?_, ?_, ?_⟩
  · simp (disch := decide) only [Row.selects, rowSw, encode, or_and_mask, putA_mask, putB_mask, putSplit_mask]; decide
  · simp (disch := decide) only [rowSw, encode, or_and_mask, putA_mask, putB_mask, putSplit_mask]; decide
  · simp [rowSw, encode]

theorem sb (a b : Reg) (i : Half) : Statement (.sb a b i) := by
  intro _
  refine ⟨rowSb, mem_of_tableStore (List.mem_of_getElem? (i := 2) rfl), ?_, ?_, ?_⟩
  · simp (disch := decide) only [Row.selects, rowSb, encode, or_and_mask, putA_mask, putB_mask, putSplit_mask]; decide
  · simp (disch := decide) only [rowSb, encode, or_and_mask, putA_mask, putB_mask, putSplit_mask]; decide
  · simp [rowSb, encode]

theorem sh (a b : Reg) (i : Half) : Statement (.sh a b i) := by
  intro _
  refine ⟨rowSh, mem_of_tableStore (List.mem_of_getElem? (i := 3) rfl), ?_, ?_, ?_⟩
  · simp (disch := decide) only [Row.selects, rowSh, encode, or_and_mask, putA_mask, putB_mask, putSplit_mask]; decide
  · simp (disch := decide) only [rowSh, encode, or_and_mask, putA_mask, putB_mask, putSplit_mask]; decide
  · simp [rowSh, encode]

theorem sub (d a b : Reg) : Statement (.sub d a b) := by
  intro _
  refine ⟨rowSub, mem_of_tableRRR (List.mem_of_getElem? (i := 8) rfl), ?_, ?_, ?_⟩
  · simp (disch := decide) only [Row.selects, rowSub, encode, or_and_mask, putD_mask, putA_mask, putB_mask]; decide
  · simp (disch := decide) only [rowSub, encode, or_and_mask, putD_mask, putA_mask, putB_mask]; decide
  · simp [rowSub, encode]

theorem and (d a b : Reg) : Statement (.and d a b) := by
  intro _
  refine ⟨rowAnd, mem_of_tableRRR (List.mem_of_getElem? (i := 9) rfl), ?_, ?_, ?_⟩
  · simp (disch := decide) only [Row.selects, rowAnd, encode, or_and_mask, putD_mask, putA_mask, putB_mask]; decide
  · simp (disch := decide) only [rowAnd, encode, or_and_mask, putD_mask, putA_mask, putB_mask]; decide
  · simp [rowAnd, encode]

theorem or (d a b : Reg) : Statement (.or d a b) := by
  intro _
  refine ⟨rowOr, mem_of_tableRRR (List.mem_of_getElem? (i := 10) rfl), ?_, ?_, ?_⟩
  · simp (disch := decide) only [Row.selects, rowOr, encode, or_and_mask, putD_mask, putA_mask, putB_mask]; decide
  · simp (disch := decide) only [rowOr, encode, or_and_mask, putD_mask, putA_mask, putB_mask]; decide
  · simp [rowOr, encode]

theorem xor (d a b : Reg) : Statement (.xor d a b) := by
  intro _
  refine ⟨rowXor, mem_of_tableRRR (List.mem_of_getElem? (i := 11) rfl), ?_, ?_, ?_⟩
  · simp (disch := decide) only [Row.selects, rowXor, encode, or_and_mask, putD_mask, putA_mask, putB_mask]; decide
  · simp (disch := decide) only [rowXor, encode, or_and_mask, putD_mask, putA_mask, putB_mask]; decide
  · simp [rowXor, encode]

theorem cmov (d a b : Reg) : Statement (.cmov d a b) := by
  intro _
  refine ⟨rowCmov, mem_of_tableRRR (List.mem_of_getElem? (i := 12) rfl), ?_, ?_, ?_⟩
  · simp (disch := decide) only [Row.selects, rowCmov, encode, or_and_mask, putD_mask, putA_mask, putB_mask]; decide
  · simp (disch := decide) only [rowCmov, encode, or_and_mask, putD_mask, putA_mask, putB_mask]; decide
  · simp [rowCmov, encode]

theorem andi (d a : Reg) (k : Half) : Statement (.andi d a k) := by
  intro _
  refine ⟨rowAndi, mem_of_tableRRI (List.mem_of_getElem? (i := 11) rfl), ?_, ?_, ?_⟩
  · simp (disch := decide) only [Row.selects, rowAndi, encode, or_and_mask, putD_mask, putA_mask, putImm_mask]; decide
  · simp (disch := decide) only [rowAndi, encode, or_and_mask, putD_mask, putA_mask, putImm_mask]; decide
  · simp [rowAndi, encode]

theorem ori (d a : Reg) (k : Half) : Statement (.ori d a k) := by
  intro _
  refine ⟨rowOri, mem_of_tableRRI (List.mem_of_getElem? (i := 12) rfl), ?_, ?_, ?_⟩
  · simp (disch := decide) only [Row.selects, rowOri, encode, or_and_mask, putD_mask, putA_mask, putImm_mask]; decide
  · simp (disch := decide) only [rowOri, encode, or_and_mask, putD_mask, putA_mask, putImm_mask]; decide
  · simp [rowOri, encode]

theorem sll (d a b : Reg) : Statement (.sll d a b) := by
  intro _
  refine ⟨rowSll, mem_of_tableRRR (List.mem_of_getElem? (i := 13) rfl), ?_, ?_, ?_⟩
  · simp (disch := decide) only [Row.selects, rowSll, encode, or_and_mask, putD_mask, putA_mask, putB_mask]; decide
  · simp (disch := decide) only [rowSll, encode, or_and_mask, putD_mask, putA_mask, putB_mask]; decide
  · simp [rowSll, encode]

theorem srl (d a b : Reg) : Statement (.srl d a b) := by
  intro _
  refine ⟨rowSrl, mem_of_tableRRR (List.mem_of_getElem? (i := 14) rfl), ?_, ?_, ?_⟩
  · simp (disch := decide) only [Row.selects, rowSrl, encode, or_and_mask, putD_mask, putA_mask, putB_mask]; decide
  · simp (disch := decide) only [rowSrl, encode, or_and_mask, putD_mask, putA_mask, putB_mask]; decide
  · simp [rowSrl, encode]

theorem sra (d a b : Reg) : Statement (.sra d a b) := by
  intro _
  refine ⟨rowSra, mem_of_tableRRR (List.mem_of_getElem? (i := 15) rfl), ?_, ?_, ?_⟩
  · simp (disch := decide) only [Row.selects, rowSra, encode, or_and_mask, putD_mask, putA_mask, putB_mask]; decide
  · simp (disch := decide) only [rowSra, encode, or_and_mask, putD_mask, putA_mask, putB_mask]; decide
  · simp [rowSra, encode]

theorem ror (d a b : Reg) : Statement (.ror d a b) := by
  intro _
  refine ⟨rowRor, mem_of_tableRRR (List.mem_of_getElem? (i := 16) rfl), ?_, ?_, ?_⟩
  · simp (disch := decide) only [Row.selects, rowRor, encode, or_and_mask, putD_mask, putA_mask, putB_mask]; decide
  · simp (disch := decide) only [rowRor, encode, or_and_mask, putD_mask, putA_mask, putB_mask]; decide
  · simp [rowRor, encode]

theorem slli (d a : Reg) (l : BitVec 6) : Statement (.slli d a l) := by
  intro hw
  have hl : shiftAmountOk l = true := hw
  refine ⟨rowSlli, mem_of_tableShift (List.mem_of_getElem? (i := 0) rfl), ?_, ?_, ?_⟩
  · simp (disch := decide) only [Row.selects, rowSlli, encode, or_and_mask, putD_mask, putA_mask, putL_mask hl]; decide
  · simp (disch := decide) only [rowSlli, encode, or_and_mask, putD_mask, putA_mask, putL_mask hl]; decide
  · simp [rowSlli, encode]

theorem srli (d a : Reg) (l : BitVec 6) : Statement (.srli d a l) := by
  intro hw
  have hl : shiftAmountOk l = true := hw
  refine ⟨rowSrli, mem_of_tableShift (List.mem_of_getElem? (i := 1) rfl), ?_, ?_, ?_⟩
  · simp (disch := decide) only [Row.selects, rowSrli, encode, or_and_mask, putD_mask, putA_mask, putL_mask hl]; decide
  · simp (disch := decide) only [rowSrli, encode, or_and_mask, putD_mask, putA_mask, putL_mask hl]; decide
  · simp [rowSrli, encode]

theorem srai (d a : Reg) (l : BitVec 6) : Statement (.srai d a l) := by
  intro hw
  have hl : shiftAmountOk l = true := hw
  refine ⟨rowSrai, mem_of_tableShift (List.mem_of_getElem? (i := 2) rfl), ?_, ?_, ?_⟩
  · simp (disch := decide) only [Row.selects, rowSrai, encode, or_and_mask, putD_mask, putA_mask, putL_mask hl]; decide
  · simp (disch := decide) only [rowSrai, encode, or_and_mask, putD_mask, putA_mask, putL_mask hl]; decide
  · simp [rowSrai, encode]

theorem rori (d a : Reg) (l : BitVec 6) : Statement (.rori d a l) := by
  intro hw
  have hl : shiftAmountOk l = true := hw
  refine ⟨rowRori, mem_of_tableShift (List.mem_of_getElem? (i := 3) rfl), ?_, ?_, ?_⟩
  · simp (disch := decide) only [Row.selects, rowRori, encode, or_and_mask, putD_mask, putA_mask, putL_mask hl]; decide
  · simp (disch := decide) only [rowRori, encode, or_and_mask, putD_mask, putA_mask, putL_mask hl]; decide
  · simp [rowRori, encode]

theorem exths (d a : Reg) : Statement (.exths d a) := by
  intro _
  refine ⟨rowExths, mem_of_tableRRR (List.mem_of_getElem? (i := 17) rfl), ?_, ?_, ?_⟩
  · simp (disch := decide) only [Row.selects, rowExths, encode, or_and_mask, putD_mask, putA_mask]; decide
  · simp (disch := decide) only [rowExths, encode, or_and_mask, putD_mask, putA_mask]; decide
  · simp [rowExths, encode]

theorem extbs (d a : Reg) : Statement (.extbs d a) := by
  intro _
  refine ⟨rowExtbs, mem_of_tableRRR (List.mem_of_getElem? (i := 18) rfl), ?_, ?_, ?_⟩
  · simp (disch := decide) only [Row.selects, rowExtbs, encode, or_and_mask, putD_mask, putA_mask]; decide
  · simp (disch := decide) only [rowExtbs, encode, or_and_mask, putD_mask, putA_mask]; decide
  · simp [rowExtbs, encode]

theorem exthz (d a : Reg) : Statement (.exthz d a) := by
  intro _
  refine ⟨rowExthz, mem_of_tableRRR (List.mem_of_getElem? (i := 19) rfl), ?_, ?_, ?_⟩
  · simp (disch := decide) only [Row.selects, rowExthz, encode, or_and_mask, putD_mask, putA_mask]; decide
  · simp (disch := decide) only [rowExthz, encode, or_and_mask, putD_mask, putA_mask]; decide
  · simp [rowExthz, encode]

theorem extbz (d a : Reg) : Statement (.extbz d a) := by
  intro _
  refine ⟨rowExtbz, mem_of_tableRRR (List.mem_of_getElem? (i := 20) rfl), ?_, ?_, ?_⟩
  · simp (disch := decide) only [Row.selects, rowExtbz, encode, or_and_mask, putD_mask, putA_mask]; decide
  · simp (disch := decide) only [rowExtbz, encode, or_and_mask, putD_mask, putA_mask]; decide
  · simp [rowExtbz, encode]

theorem extws (d a : Reg) : Statement (.extws d a) := by
  intro _
  refine ⟨rowExtws, mem_of_tableRRR (List.mem_of_getElem? (i := 21) rfl), ?_, ?_, ?_⟩
  · simp (disch := decide) only [Row.selects, rowExtws, encode, or_and_mask, putD_mask, putA_mask]; decide
  · simp (disch := decide) only [rowExtws, encode, or_and_mask, putD_mask, putA_mask]; decide
  · simp [rowExtws, encode]

theorem extwz (d a : Reg) : Statement (.extwz d a) := by
  intro _
  refine ⟨rowExtwz, mem_of_tableRRR (List.mem_of_getElem? (i := 22) rfl), ?_, ?_, ?_⟩
  · simp (disch := decide) only [Row.selects, rowExtwz, encode, or_and_mask, putD_mask, putA_mask]; decide
  · simp (disch := decide) only [rowExtwz, encode, or_and_mask, putD_mask, putA_mask]; decide
  · simp [rowExtwz, encode]

theorem sfeq (a b : Reg) : Statement (.sfeq a b) := by
  intro _
  refine ⟨rowSfeq, mem_of_tableCompare (List.mem_of_getElem? (i := 0) rfl), ?_, ?_, ?_⟩
  · simp (disch := decide) only [Row.selects, rowSfeq, encode, or_and_mask, putA_mask, putB_mask]; decide
  · simp (disch := decide) only [rowSfeq, encode, or_and_mask, putA_mask, putB_mask]; decide
  · simp [rowSfeq, encode]

theorem sfne (a b : Reg) : Statement (.sfne a b) := by
  intro _
  refine ⟨rowSfne, mem_of_tableCompare (List.mem_of_getElem? (i := 1) rfl), ?_, ?_, ?_⟩
  · simp (disch := decide) only [Row.selects, rowSfne, encode, or_and_mask, putA_mask, putB_mask]; decide
  · simp (disch := decide) only [rowSfne, encode, or_and_mask, putA_mask, putB_mask]; decide
  · simp [rowSfne, encode]

theorem sfgtu (a b : Reg) : Statement (.sfgtu a b) := by
  intro _
  refine ⟨rowSfgtu, mem_of_tableCompare (List.mem_of_getElem? (i := 2) rfl), ?_, ?_, ?_⟩
  · simp (disch := decide) only [Row.selects, rowSfgtu, encode, or_and_mask, putA_mask, putB_mask]; decide
  · simp (disch := decide) only [rowSfgtu, encode, or_and_mask, putA_mask, putB_mask]; decide
  · simp [rowSfgtu, encode]

theorem sfgeu (a b : Reg) : Statement (.sfgeu a b) := by
  intro _
  refine ⟨rowSfgeu, mem_of_tableCompare (List.mem_of_getElem? (i := 3) rfl), ?_, ?_, ?_⟩
  · simp (disch := decide) only [Row.selects, rowSfgeu, encode, or_and_mask, putA_mask, putB_mask]; decide
  · simp (disch := decide) only [rowSfgeu, encode, or_and_mask, putA_mask, putB_mask]; decide
  · simp [rowSfgeu, encode]

theorem sfltu (a b : Reg) : Statement (.sfltu a b) := by
  intro _
  refine ⟨rowSfltu, mem_of_tableCompare (List.mem_of_getElem? (i := 4) rfl), ?_, ?_, ?_⟩
  · simp (disch := decide) only [Row.selects, rowSfltu, encode, or_and_mask, putA_mask, putB_mask]; decide
  · simp (disch := decide) only [rowSfltu, encode, or_and_mask, putA_mask, putB_mask]; decide
  · simp [rowSfltu, encode]

theorem sfleu (a b : Reg) : Statement (.sfleu a b) := by
  intro _
  refine ⟨rowSfleu, mem_of_tableCompare (List.mem_of_getElem? (i := 5) rfl), ?_, ?_, ?_⟩
  · simp (disch := decide) only [Row.selects, rowSfleu, encode, or_and_mask, putA_mask, putB_mask]; decide
  · simp (disch := decide) only [rowSfleu, encode, or_and_mask, putA_mask, putB_mask]; decide
  · simp [rowSfleu, encode]

theorem sfgts (a b : Reg) : Statement (.sfgts a b) := by
  intro _
  refine ⟨rowSfgts, mem_of_tableCompare (List.mem_of_getElem? (i := 6) rfl), ?_, ?_, ?_⟩
  · simp (disch := decide) only [Row.selects, rowSfgts, encode, or_and_mask, putA_mask, putB_mask]; decide
  · simp (disch := decide) only [rowSfgts, encode, or_and_mask, putA_mask, putB_mask]; decide
  · simp [rowSfgts, encode]

theorem sfges (a b : Reg) : Statement (.sfges a b) := by
  intro _
  refine ⟨rowSfges, mem_of_tableCompare (List.mem_of_getElem? (i := 7) rfl), ?_, ?_, ?_⟩
  · simp (disch := decide) only [Row.selects, rowSfges, encode, or_and_mask, putA_mask, putB_mask]; decide
  · simp (disch := decide) only [rowSfges, encode, or_and_mask, putA_mask, putB_mask]; decide
  · simp [rowSfges, encode]

theorem sflts (a b : Reg) : Statement (.sflts a b) := by
  intro _
  refine ⟨rowSflts, mem_of_tableCompare (List.mem_of_getElem? (i := 8) rfl), ?_, ?_, ?_⟩
  · simp (disch := decide) only [Row.selects, rowSflts, encode, or_and_mask, putA_mask, putB_mask]; decide
  · simp (disch := decide) only [rowSflts, encode, or_and_mask, putA_mask, putB_mask]; decide
  · simp [rowSflts, encode]

theorem sfles (a b : Reg) : Statement (.sfles a b) := by
  intro _
  refine ⟨rowSfles, mem_of_tableCompare (List.mem_of_getElem? (i := 9) rfl), ?_, ?_, ?_⟩
  · simp (disch := decide) only [Row.selects, rowSfles, encode, or_and_mask, putA_mask, putB_mask]; decide
  · simp (disch := decide) only [rowSfles, encode, or_and_mask, putA_mask, putB_mask]; decide
  · simp [rowSfles, encode]

theorem sfeqi (a : Reg) (i : Half) : Statement (.sfeqi a i) := by
  intro _
  refine ⟨rowSfeqi, mem_of_tableCompareImm (List.mem_of_getElem? (i := 0) rfl), ?_, ?_, ?_⟩
  · simp (disch := decide) only [Row.selects, rowSfeqi, encode, or_and_mask, putA_mask, putImm_mask]; decide
  · simp (disch := decide) only [rowSfeqi, encode, or_and_mask, putA_mask, putImm_mask]; decide
  · simp [rowSfeqi, encode]

theorem sfnei (a : Reg) (i : Half) : Statement (.sfnei a i) := by
  intro _
  refine ⟨rowSfnei, mem_of_tableCompareImm (List.mem_of_getElem? (i := 1) rfl), ?_, ?_, ?_⟩
  · simp (disch := decide) only [Row.selects, rowSfnei, encode, or_and_mask, putA_mask, putImm_mask]; decide
  · simp (disch := decide) only [rowSfnei, encode, or_and_mask, putA_mask, putImm_mask]; decide
  · simp [rowSfnei, encode]

theorem sfgtui (a : Reg) (i : Half) : Statement (.sfgtui a i) := by
  intro _
  refine ⟨rowSfgtui, mem_of_tableCompareImm (List.mem_of_getElem? (i := 2) rfl), ?_, ?_, ?_⟩
  · simp (disch := decide) only [Row.selects, rowSfgtui, encode, or_and_mask, putA_mask, putImm_mask]; decide
  · simp (disch := decide) only [rowSfgtui, encode, or_and_mask, putA_mask, putImm_mask]; decide
  · simp [rowSfgtui, encode]

theorem sfgeui (a : Reg) (i : Half) : Statement (.sfgeui a i) := by
  intro _
  refine ⟨rowSfgeui, mem_of_tableCompareImm (List.mem_of_getElem? (i := 3) rfl), ?_, ?_, ?_⟩
  · simp (disch := decide) only [Row.selects, rowSfgeui, encode, or_and_mask, putA_mask, putImm_mask]; decide
  · simp (disch := decide) only [rowSfgeui, encode, or_and_mask, putA_mask, putImm_mask]; decide
  · simp [rowSfgeui, encode]

theorem sfltui (a : Reg) (i : Half) : Statement (.sfltui a i) := by
  intro _
  refine ⟨rowSfltui, mem_of_tableCompareImm (List.mem_of_getElem? (i := 4) rfl), ?_, ?_, ?_⟩
  · simp (disch := decide) only [Row.selects, rowSfltui, encode, or_and_mask, putA_mask, putImm_mask]; decide
  · simp (disch := decide) only [rowSfltui, encode, or_and_mask, putA_mask, putImm_mask]; decide
  · simp [rowSfltui, encode]

theorem sfleui (a : Reg) (i : Half) : Statement (.sfleui a i) := by
  intro _
  refine ⟨rowSfleui, mem_of_tableCompareImm (List.mem_of_getElem? (i := 5) rfl), ?_, ?_, ?_⟩
  · simp (disch := decide) only [Row.selects, rowSfleui, encode, or_and_mask, putA_mask, putImm_mask]; decide
  · simp (disch := decide) only [rowSfleui, encode, or_and_mask, putA_mask, putImm_mask]; decide
  · simp [rowSfleui, encode]

theorem sfgtsi (a : Reg) (i : Half) : Statement (.sfgtsi a i) := by
  intro _
  refine ⟨rowSfgtsi, mem_of_tableCompareImm (List.mem_of_getElem? (i := 6) rfl), ?_, ?_, ?_⟩
  · simp (disch := decide) only [Row.selects, rowSfgtsi, encode, or_and_mask, putA_mask, putImm_mask]; decide
  · simp (disch := decide) only [rowSfgtsi, encode, or_and_mask, putA_mask, putImm_mask]; decide
  · simp [rowSfgtsi, encode]

theorem sfgesi (a : Reg) (i : Half) : Statement (.sfgesi a i) := by
  intro _
  refine ⟨rowSfgesi, mem_of_tableCompareImm (List.mem_of_getElem? (i := 7) rfl), ?_, ?_, ?_⟩
  · simp (disch := decide) only [Row.selects, rowSfgesi, encode, or_and_mask, putA_mask, putImm_mask]; decide
  · simp (disch := decide) only [rowSfgesi, encode, or_and_mask, putA_mask, putImm_mask]; decide
  · simp [rowSfgesi, encode]

theorem sfltsi (a : Reg) (i : Half) : Statement (.sfltsi a i) := by
  intro _
  refine ⟨rowSfltsi, mem_of_tableCompareImm (List.mem_of_getElem? (i := 8) rfl), ?_, ?_, ?_⟩
  · simp (disch := decide) only [Row.selects, rowSfltsi, encode, or_and_mask, putA_mask, putImm_mask]; decide
  · simp (disch := decide) only [rowSfltsi, encode, or_and_mask, putA_mask, putImm_mask]; decide
  · simp [rowSfltsi, encode]

theorem sflesi (a : Reg) (i : Half) : Statement (.sflesi a i) := by
  intro _
  refine ⟨rowSflesi, mem_of_tableCompareImm (List.mem_of_getElem? (i := 9) rfl), ?_, ?_, ?_⟩
  · simp (disch := decide) only [Row.selects, rowSflesi, encode, or_and_mask, putA_mask, putImm_mask]; decide
  · simp (disch := decide) only [rowSflesi, encode, or_and_mask, putA_mask, putImm_mask]; decide
  · simp [rowSflesi, encode]

theorem mac (a b : Reg) : Statement (.mac a b) := by
  intro _
  refine ⟨rowMac, mem_of_tableStore (List.mem_of_getElem? (i := 4) rfl), ?_, ?_, ?_⟩
  · simp (disch := decide) only [Row.selects, rowMac, encode, or_and_mask, putA_mask, putB_mask]; decide
  · simp (disch := decide) only [rowMac, encode, or_and_mask, putA_mask, putB_mask]; decide
  · simp [rowMac, encode]

theorem msb (a b : Reg) : Statement (.msb a b) := by
  intro _
  refine ⟨rowMsb, mem_of_tableStore (List.mem_of_getElem? (i := 5) rfl), ?_, ?_, ?_⟩
  · simp (disch := decide) only [Row.selects, rowMsb, encode, or_and_mask, putA_mask, putB_mask]; decide
  · simp (disch := decide) only [rowMsb, encode, or_and_mask, putA_mask, putB_mask]; decide
  · simp [rowMsb, encode]

end Laws.SelectsRow

end Sys2Proof
end

