-- ==== Sys2Proof/Tests/Slice0.lean ====
section
/-! SUPPORT. Tests on fixed values, taken from the spec: every word is written out from the encodings of 30_encoding.md R73,
48_base_isa_supplement_a.md and 49_base_isa_supplement_b.md, every outcome from the vectors of 95_test_vectors.md named in each
section. Below them, for each statement with hypotheses, concrete states and operands that meet them. -/

namespace Sys2Proof.Machine

set_option Elab.async false

/-! ## Helpers -/

/-- A build with the OPEN parameters at concrete values; what they are does not matter. -/
def testBuild : Build := ⟨false, false, true, 32, .refuse, 0x12000001, 0x00000119, 0x00000020, .unsignedProduct⟩

/-- The machine of 95_test_vectors.md's tables: pc = 0x2000, no slot, r0 = 0, the registers and the SR given. -/
def at2000 (regs : List (Reg × Word)) (sr : Word) : State :=
  regs.foldl (fun s p => s.setReg p.1 p.2) { State.reset with pc := 0x2000, sr := sr, build := testBuild }

/-- The same with the word at `pc`. -/
def fetches (w : Word) (s : State) : State := s.placeWord w

/-- The data of 95_test_vectors.md B8. -/
def withData : State :=
  ((at2000 [(4, 0x3000), (5, 0xAABBCCDD)] 0x8001).placeBytes 0x3000 (bytesOfWord 0x12345678)).placeBytes 0x3004 (bytesOfWord 0x80FF7F01)

/-- What a next state shows, or nothing where there is none. -/
def see {α : Type} (r : Result) (f : State → α) : Option α :=
  match r with
  | .next t => some (f t)
  | .fault _ => none
  | .refused _ => none

/-- The refusal, where the outcome is one. -/
def refusal (r : Result) : Option Refusal :=
  match r with
  | .next _ => none
  | .fault _ => none
  | .refused e => some e

/-- r3, SR, pc. -/
def alu (t : State) : Word × Word × Word := (t.reg 3, t.readSR, t.pc)
/-- pc, pending target, r9. -/
def flow (t : State) : Word × Option Word × Word := (t.pc, t.delay, t.reg 9)
/-- pc, EPCR0, ESR0, SR. -/
def entry (t : State) : Word × Word × Word × Word := (t.pc, t.epcr0, t.esr0, t.readSR)
/-- MACHI, MACLO, SR. -/
def mac (t : State) : Word × Word × Word := (t.machi, t.maclo, t.readSR)
/-- SR[F] after a compare. -/
def flagOf (i : Instr) (regs : List (Reg × Word)) : Bool := see (exec i (at2000 regs 0x8001)) (·.srBit SR.F) = some true
/-- SR[F] after a compare, for two pairs of operands. -/
def flagsOf (i : Instr) (p q : List (Reg × Word)) : Bool × Bool := (flagOf i p, flagOf i q)

/-- Each word decodes to its instruction, in the decoder and in the host's form, and is its encoding. -/
def decodesTo (l : List (Word × Instr)) : Bool :=
  l.all fun p => decide (decodeWord p.1 = .ok p.2) && decide (encode p.2 = p.1) && decide (decodeTableWord 32 p.1.toNat = some p.2)

/-! ## WellFormed: bit 5 of a shift amount is refused -/

theorem test_wellformed_slli : (Instr.slli 3 4 32).wellFormed = false := by decide
theorem test_wellformed_srli : (Instr.srli 3 4 33).wellFormed = false := by decide
theorem test_wellformed_srai : (Instr.srai 3 4 32).wellFormed = false := by decide
theorem test_wellformed_rori : (Instr.rori 3 4 63).wellFormed = false := by decide
theorem test_wellformed_all_amounts : (Instr.rori 3 4 31).wellFormed = true := by decide

/-! ## Decoding: D = 21, A = 10, B = 27, I = K = 0x9A5C, N = 0x2A5C3E1, L = 21 in the encodings' fields, reserved bits 0 -/

theorem test_decode_arithmetic : decodesTo [
    (0xE2AAD800, .add 21 10 27), (0xE2AAD801, .addc 21 10 27), (0xE2AADB06, .mul 21 10 27), (0xE2AADB09, .div 21 10 27),
    (0xE2AADB0A, .divu 21 10 27), (0xE2AADB0B, .mulu 21 10 27), (0x9EAA9A5C, .addi 21 10 0x9A5C), (0xA2AA9A5C, .addic 21 10 0x9A5C),
    (0xB2AA9A5C, .muli 21 10 0x9A5C), (0xE2AAD802, .sub 21 10 27)] =
    true := by decide

theorem test_decode_logic : decodesTo [
    (0xE2AA000F, .ff1 21 10), (0xE2AA010F, .fl1 21 10), (0xAEAA9A5C, .xori 21 10 0x9A5C), (0x1AA09A5C, .movhi 21 0x9A5C),
    (0xE2AAD803, .and 21 10 27), (0xE2AAD804, .or 21 10 27), (0xE2AAD805, .xor 21 10 27), (0xE2AAD80E, .cmov 21 10 27),
    (0xA6AA9A5C, .andi 21 10 0x9A5C), (0xAAAA9A5C, .ori 21 10 0x9A5C), (0xE2AA000C, .exths 21 10), (0xE2AA004C, .extbs 21 10),
    (0xE2AA008C, .exthz 21 10), (0xE2AA00CC, .extbz 21 10), (0xE2AA000D, .extws 21 10), (0xE2AA004D, .extwz 21 10)] =
    true := by decide

theorem test_decode_shifts : decodesTo [
    (0xE2AAD808, .sll 21 10 27), (0xE2AAD848, .srl 21 10 27), (0xE2AAD888, .sra 21 10 27), (0xE2AAD8C8, .ror 21 10 27),
    (0xBAAA0015, .slli 21 10 0x15), (0xBAAA0055, .srli 21 10 0x15), (0xBAAA0095, .srai 21 10 0x15), (0xBAAA00D5, .rori 21 10 0x15)] =
    true := by decide

theorem test_decode_jumps : decodesTo [
    (0x4400D800, .jr 27), (0x4800D800, .jalr 27), (0x02A5C3E1, .j 0x2A5C3E1), (0x06A5C3E1, .jal 0x2A5C3E1),
    (0x0EA5C3E1, .bnf 0x2A5C3E1), (0x12A5C3E1, .bf 0x2A5C3E1)] =
    true := by decide

theorem test_decode_accumulator : decodesTo [
    (0x4C0A9A5C, .maci 10 0x9A5C), (0x1AA10000, .macrc 21), (0xC40AD801, .mac 10 27), (0xC40AD802, .msb 10 27)] =
    true := by decide

theorem test_decode_system : decodesTo [
    (0x15009A5C, .nop 0x9A5C), (0x20009A5C, .sys 0x9A5C), (0x21009A5C, .trap 0x9A5C), (0x22000000, .msync), (0x22800000, .psync),
    (0x23000000, .csync), (0x24000000, .rfe), (0xB6AA9A5C, .mfspr 21 10 0x9A5C), (0xC26ADA5C, .mtspr 10 27 0x9A5C)] =
    true := by decide

theorem test_decode_memory : decodesTo [
    (0x86AA9A5C, .lwz 21 10 0x9A5C), (0x8AAA9A5C, .lws 21 10 0x9A5C), (0x8EAA9A5C, .lbz 21 10 0x9A5C), (0x92AA9A5C, .lbs 21 10 0x9A5C),
    (0x96AA9A5C, .lhz 21 10 0x9A5C), (0x9AAA9A5C, .lhs 21 10 0x9A5C), (0xD66ADA5C, .sw 10 27 0x9A5C), (0xDA6ADA5C, .sb 10 27 0x9A5C),
    (0xDE6ADA5C, .sh 10 27 0x9A5C)] =
    true := by decide

theorem test_decode_float : decodesTo [
    (0xCAAAD807, .maddS 21 10 27), (0xCAAAD817, .maddD 21 10 27)] =
    true := by decide

theorem test_decode_compares : decodesTo [
    (0xE40AD800, .sfeq 10 27), (0xE42AD800, .sfne 10 27), (0xE44AD800, .sfgtu 10 27), (0xE46AD800, .sfgeu 10 27),
    (0xE48AD800, .sfltu 10 27), (0xE4AAD800, .sfleu 10 27), (0xE54AD800, .sfgts 10 27), (0xE56AD800, .sfges 10 27),
    (0xE58AD800, .sflts 10 27), (0xE5AAD800, .sfles 10 27)] =
    true := by decide

theorem test_decode_compares_immediate : decodesTo [
    (0xBC0A9A5C, .sfeqi 10 0x9A5C), (0xBC2A9A5C, .sfnei 10 0x9A5C), (0xBC4A9A5C, .sfgtui 10 0x9A5C), (0xBC6A9A5C, .sfgeui 10 0x9A5C),
    (0xBC8A9A5C, .sfltui 10 0x9A5C), (0xBCAA9A5C, .sfleui 10 0x9A5C), (0xBD4A9A5C, .sfgtsi 10 0x9A5C), (0xBD6A9A5C, .sfgesi 10 0x9A5C),
    (0xBD8A9A5C, .sfltsi 10 0x9A5C), (0xBDAA9A5C, .sflesi 10 0x9A5C)] =
    true := by decide

/-! ## One step -/

/-! ### Arithmetic (95_test_vectors.md B1, B2, B5, B9) -/

theorem test_add_carry : see (exec (.add 3 4 5) (at2000 [(4, 0xFFFFFFFF), (5, 1)] 0x8001)) alu =
    some (0x00000000, 0x8401, 0x2004) := by decide
theorem test_add_range : see (exec (.add 3 4 5) (at2000 [(4, 0x7FFFFFFF), (5, 1)] 0x9001)) entry =
    some (0x0B00, 0x2000, 0x9801, 0x8801) := by decide
theorem test_addc_carry_in : see (exec (.addc 3 4 5) (at2000 [(4, 0x7FFFFFFF), (5, 0)] 0x8401)) alu =
    some (0x80000000, 0x8801, 0x2004) := by decide
theorem test_addc_range : see (exec (.addc 3 4 5) (at2000 [(4, 0x7FFFFFFF), (5, 0)] 0x9401)) entry =
    some (0x0B00, 0x2000, 0x9801, 0x8801) := by decide
theorem test_addi_negative : see (exec (.addi 3 4 0xFFFF) (at2000 [(4, 0x80000000)] 0x8001)) alu =
    some (0x7FFFFFFF, 0x8C01, 0x2004) := by decide
theorem test_addi_range : see (exec (.addi 3 4 0xFFFF) (at2000 [(4, 0x80000000)] 0x9001)) entry =
    some (0x0B00, 0x2000, 0x9C01, 0x8C01) := by decide
theorem test_addic_carry_in : see (exec (.addic 3 4 0xFFFF) (at2000 [(4, 0)] 0x8401)) alu = some (0x00000000, 0x8401, 0x2004) := by decide
theorem test_addic_range : see (exec (.addic 3 4 1) (at2000 [(4, 0x7FFFFFFE)] 0x9401)) entry =
    some (0x0B00, 0x2000, 0x9801, 0x8801) := by decide
theorem test_sub_borrow : see (exec (.sub 3 4 5) (at2000 [(4, 5), (5, 7)] 0x8001)) alu = some (0xFFFFFFFE, 0x8401, 0x2004) := by decide
theorem test_sub_overflow : see (exec (.sub 3 4 5) (at2000 [(4, 0x80000000), (5, 1)] 0x8001)) alu =
    some (0x7FFFFFFF, 0x8801, 0x2004) := by decide
theorem test_mul_overflow : see (exec (.mul 3 4 5) (at2000 [(4, 0x80000000), (5, 0xFFFFFFFF)] 0x8001)) alu =
    some (0x80000000, 0x8C01, 0x2004) := by decide
theorem test_mul_range : see (exec (.mul 3 4 5) (at2000 [(4, 0x00010000), (5, 0x00008000)] 0x9001)) entry =
    some (0x0B00, 0x2000, 0x9801, 0x8801) := by decide
theorem test_muli_negative : see (exec (.muli 3 4 0x8000) (at2000 [(4, 0x00010001)] 0x8001)) alu =
    some (0x7FFF8000, 0x8C01, 0x2004) := by decide
theorem test_muli_range : see (exec (.muli 3 4 0xFFFE) (at2000 [(4, 0x7FFFFFFF)] 0x9001)) entry =
    some (0x0B00, 0x2000, 0x9C01, 0x8C01) := by decide
theorem test_mulu_carry : see (exec (.mulu 3 4 5) (at2000 [(4, 0x00010000), (5, 0x00010000)] 0x9001)) alu =
    some (0x00000000, 0x9401, 0x2004) := by decide
theorem test_mulu_clears_overflow : see (exec (.mulu 3 4 5) (at2000 [(4, 0xFFFFFFFF), (5, 1)] 0x8801)) alu =
    some (0xFFFFFFFF, 0x8001, 0x2004) := by decide
theorem test_div_toward_zero : see (exec (.div 3 4 5) (at2000 [(4, 0xFFFFFFF9), (5, 2)] 0x8C01)) alu =
    some (0xFFFFFFFD, 0x8001, 0x2004) := by decide
theorem test_div_zero_range : see (exec (.div 3 4 5) (at2000 [(4, 7), (5, 0)] 0x9001)) entry =
    some (0x0B00, 0x2000, 0x9401, 0x8401) := by decide
theorem test_divu_unsigned : see (exec (.divu 3 4 5) (at2000 [(4, 0xFFFFFFF9), (5, 2)] 0x8001)) alu =
    some (0x7FFFFFFC, 0x8001, 0x2004) := by decide
theorem test_divu_zero : see (exec (.divu 3 4 5) (at2000 [(4, 7), (5, 0)] 0x8001)) (fun t => (t.readSR, t.pc, t.draws)) =
    some (0x8401, 0x2004, 1) := by decide

/-! ### Bits, logic, moves, extends, shifts (B3, B6, B9) -/

theorem test_ff1 : see (exec (.ff1 3 4) (at2000 [(4, 0x00100100)] 0x8C01)) alu = some (9, 0x8C01, 0x2004) := by decide
theorem test_fl1 : see (exec (.fl1 3 4) (at2000 [(4, 0x00100100)] 0x8C01)) alu = some (21, 0x8C01, 0x2004) := by decide
theorem test_xori_zero_extends : see (exec (.xori 3 4 0xFFFF) (at2000 [(4, 0x12345678)] 0x8C01)) alu =
    some (0x1234A987, 0x8C01, 0x2004) := by decide
theorem test_xori_sign_extends : see (exec (.xori 3 4 0xFFFF)
    { at2000 [(4, 0x12345678)] 0x8C01 with build := { testBuild with xoriSignExtend := true } }) alu =
    some (0xEDCBA987, 0x8C01, 0x2004) := by decide
theorem test_movhi : see (exec (.movhi 3 0x1234) (at2000 [] 0x8001)) alu = some (0x12340000, 0x8001, 0x2004) := by decide
theorem test_and : see (exec (.and 3 4 5) (at2000 [(4, 0xF0F0F0F0), (5, 0x0FF00FF0)] 0x8C01)) alu =
    some (0x00F000F0, 0x8C01, 0x2004) := by decide
theorem test_or : see (exec (.or 3 4 5) (at2000 [(4, 0xF0F0F0F0), (5, 0x0FF00FF0)] 0x8C01)) alu =
    some (0xFFF0FFF0, 0x8C01, 0x2004) := by decide
theorem test_xor : see (exec (.xor 3 4 5) (at2000 [(4, 0xF0F0F0F0), (5, 0x0FF00FF0)] 0x8C01)) alu =
    some (0xFF00FF00, 0x8C01, 0x2004) := by decide
theorem test_andi : see (exec (.andi 3 4 0xF0F0) (at2000 [(4, 0x12345678)] 0x8C01)) alu = some (0x00005070, 0x8C01, 0x2004) := by decide
theorem test_ori : see (exec (.ori 3 4 0xFFFF) (at2000 [(4, 0x12340000)] 0x8C01)) alu = some (0x1234FFFF, 0x8C01, 0x2004) := by decide
theorem test_cmov_clear : see (exec (.cmov 3 4 5) (at2000 [(4, 0xAAAAAAAA), (5, 0x55555555)] 0x8001)) alu =
    some (0x55555555, 0x8001, 0x2004) := by decide
theorem test_cmov_set : see (exec (.cmov 3 4 5) (at2000 [(4, 0xAAAAAAAA), (5, 0x55555555)] 0x8201)) alu =
    some (0xAAAAAAAA, 0x8201, 0x2004) := by decide
theorem test_exths : see (exec (.exths 3 4) (at2000 [(4, 0x12348765)] 0x8001)) alu = some (0xFFFF8765, 0x8001, 0x2004) := by decide
theorem test_extbs : see (exec (.extbs 3 4) (at2000 [(4, 0x12345680)] 0x8001)) alu = some (0xFFFFFF80, 0x8001, 0x2004) := by decide
theorem test_exthz : see (exec (.exthz 3 4) (at2000 [(4, 0x12348765)] 0x8001)) alu = some (0x00008765, 0x8001, 0x2004) := by decide
theorem test_extbz : see (exec (.extbz 3 4) (at2000 [(4, 0x12345680)] 0x8001)) alu = some (0x00000080, 0x8001, 0x2004) := by decide
theorem test_extws : see (exec (.extws 3 4) (at2000 [(4, 0x80000000)] 0x8001)) alu = some (0x80000000, 0x8001, 0x2004) := by decide
theorem test_extwz : see (exec (.extwz 3 4) (at2000 [(4, 0x80000000)] 0x8001)) alu = some (0x80000000, 0x8001, 0x2004) := by decide
theorem test_sll_amount_wraps : see (exec (.sll 3 4 5) (at2000 [(4, 1), (5, 0x21)] 0x8001)) alu = some (2, 0x8001, 0x2004) := by decide
theorem test_srl : see (exec (.srl 3 4 5) (at2000 [(4, 0x80000000), (5, 31)] 0x8001)) alu = some (1, 0x8001, 0x2004) := by decide
theorem test_sra : see (exec (.sra 3 4 5) (at2000 [(4, 0x80000001), (5, 1)] 0x8001)) alu = some (0xC0000000, 0x8001, 0x2004) := by decide
theorem test_ror : see (exec (.ror 3 4 5) (at2000 [(4, 0x12345678), (5, 8)] 0x8001)) alu = some (0x78123456, 0x8001, 0x2004) := by decide
theorem test_slli : see (exec (.slli 3 4 31) (at2000 [(4, 1)] 0x8C01)) alu = some (0x80000000, 0x8C01, 0x2004) := by decide
theorem test_srli : see (exec (.srli 3 4 31) (at2000 [(4, 0x80000000)] 0x8C01)) alu = some (1, 0x8C01, 0x2004) := by decide
theorem test_srai : see (exec (.srai 3 4 31) (at2000 [(4, 0x80000000)] 0x8C01)) alu = some (0xFFFFFFFF, 0x8C01, 0x2004) := by decide
theorem test_rori : see (exec (.rori 3 4 31) (at2000 [(4, 0x12345678)] 0x8C01)) alu = some (0x2468ACF0, 0x8C01, 0x2004) := by decide

/-! ### Compares (B9): the outcomes for r4 = 0xFFFFFFFF, r5 = 1, and for r4 = r5 = 5; for r4 = 0x80000000, I = 32767, and r4 = 5, I = 5 -/

theorem test_sfeq : flagsOf (.sfeq 4 5) [(4, 0xFFFFFFFF), (5, 1)] [(4, 5), (5, 5)] = (false, true) := by decide
theorem test_sfne : flagsOf (.sfne 4 5) [(4, 0xFFFFFFFF), (5, 1)] [(4, 5), (5, 5)] = (true, false) := by decide
theorem test_sfgtu : flagsOf (.sfgtu 4 5) [(4, 0xFFFFFFFF), (5, 1)] [(4, 5), (5, 5)] = (true, false) := by decide
theorem test_sfgeu : flagsOf (.sfgeu 4 5) [(4, 0xFFFFFFFF), (5, 1)] [(4, 5), (5, 5)] = (true, true) := by decide
theorem test_sfltu : flagsOf (.sfltu 4 5) [(4, 0xFFFFFFFF), (5, 1)] [(4, 5), (5, 5)] = (false, false) := by decide
theorem test_sfleu : flagsOf (.sfleu 4 5) [(4, 0xFFFFFFFF), (5, 1)] [(4, 5), (5, 5)] = (false, true) := by decide
theorem test_sfgts : flagsOf (.sfgts 4 5) [(4, 0xFFFFFFFF), (5, 1)] [(4, 5), (5, 5)] = (false, false) := by decide
theorem test_sfges : flagsOf (.sfges 4 5) [(4, 0xFFFFFFFF), (5, 1)] [(4, 5), (5, 5)] = (false, true) := by decide
theorem test_sflts : flagsOf (.sflts 4 5) [(4, 0xFFFFFFFF), (5, 1)] [(4, 5), (5, 5)] = (true, false) := by decide
theorem test_sfles : flagsOf (.sfles 4 5) [(4, 0xFFFFFFFF), (5, 1)] [(4, 5), (5, 5)] = (true, true) := by decide
theorem test_sfeqi : (flagOf (.sfeqi 4 0x7FFF) [(4, 0x80000000)], flagOf (.sfeqi 4 5) [(4, 5)]) = (false, true) := by decide
theorem test_sfnei : (flagOf (.sfnei 4 0x7FFF) [(4, 0x80000000)], flagOf (.sfnei 4 5) [(4, 5)]) = (true, false) := by decide
theorem test_sfgtui : (flagOf (.sfgtui 4 0x7FFF) [(4, 0x80000000)], flagOf (.sfgtui 4 5) [(4, 5)]) = (true, false) := by decide
theorem test_sfgeui : (flagOf (.sfgeui 4 0x7FFF) [(4, 0x80000000)], flagOf (.sfgeui 4 5) [(4, 5)]) = (true, true) := by decide
theorem test_sfltui : (flagOf (.sfltui 4 0x7FFF) [(4, 0x80000000)], flagOf (.sfltui 4 5) [(4, 5)]) = (false, false) := by decide
theorem test_sfleui : (flagOf (.sfleui 4 0x7FFF) [(4, 0x80000000)], flagOf (.sfleui 4 5) [(4, 5)]) = (false, true) := by decide
theorem test_sfgtsi : (flagOf (.sfgtsi 4 0x7FFF) [(4, 0x80000000)], flagOf (.sfgtsi 4 5) [(4, 5)]) = (false, false) := by decide
theorem test_sfgesi : (flagOf (.sfgesi 4 0x7FFF) [(4, 0x80000000)], flagOf (.sfgesi 4 5) [(4, 5)]) = (false, true) := by decide
theorem test_sfltsi : (flagOf (.sfltsi 4 0x7FFF) [(4, 0x80000000)], flagOf (.sfltsi 4 5) [(4, 5)]) = (true, false) := by decide
theorem test_sflesi : (flagOf (.sflesi 4 0x7FFF) [(4, 0x80000000)], flagOf (.sflesi 4 5) [(4, 5)]) = (true, true) := by decide

/-! ### Jumps and branches (B4, B8) -/

theorem test_j : see (exec (.j 0x3FFF800) (at2000 [] 0x8001)) flow = some (0x2004, some 0x0000, 0) := by decide
theorem test_jal : see (exec (.jal 0x10) (at2000 [] 0x8001)) flow = some (0x2004, some 0x2040, 0x2008) := by decide
theorem test_bf_taken : see (exec (.bf 0x3FFFFFE) (at2000 [] 0x8201)) flow = some (0x2004, some 0x1FF8, 0) := by decide
theorem test_bf_not_taken : see (exec (.bf 0x10) (at2000 [] 0x8001)) flow = some (0x2004, some 0x2008, 0) := by decide
theorem test_bnf_taken : see (exec (.bnf 0x10) (at2000 [] 0x8001)) flow = some (0x2004, some 0x2040, 0) := by decide
theorem test_bnf_not_taken : see (exec (.bnf 0x10) (at2000 [] 0x8201)) flow = some (0x2004, some 0x2008, 0) := by decide
theorem test_jr : see (exec (.jr 9) (at2000 [(9, 0x0104)] 0x8001)) flow = some (0x2004, some 0x0104, 0x0104) := by decide
theorem test_jr_misaligned : see (exec (.jr 5) (at2000 [(5, 0x3001)] 0x8001)) (fun t => (entry t, t.eear0, t.delay)) =
    some ((0x0600, 0x2000, 0x8001, 0x8001), 0x3001, none) := by decide
theorem test_jalr : see (exec (.jalr 5) (at2000 [(5, 0x3000), (9, 0x0AAA)] 0x8001)) flow = some (0x2004, some 0x3000, 0x2008) := by decide
theorem test_jalr_link_register : see (exec (.jalr 9) (at2000 [(9, 0x3002)] 0x9205)) (fun t => (entry t, t.reg 9)) =
    some ((0x0700, 0x2000, 0x9205, 0x8201), 0x3002) := by decide

/-! ### The accumulator (B5, B9) -/

theorem test_maci_truncates : see (exec (.maci 4 0x4000) { at2000 [(4, 0x00020000)] 0x9C01 with machi := 0, maclo := 0 }) mac =
    some (0xFFFFFFFF, 0x80000000, 0x9C01) := by decide
theorem test_maci_carries : see (exec (.maci 4 1) { at2000 [(4, 1)] 0x9C01 with machi := 0x7FFFFFFF, maclo := 0xFFFFFFFF }) mac =
    some (0x80000000, 0x00000000, 0x9C01) := by decide
theorem test_mac : see (exec (.mac 4 5) { at2000 [(4, 0xFFFFFFFD), (5, 4)] 0x9C01 with machi := 0, maclo := 12 }) mac =
    some (0, 0, 0x9C01) := by decide
theorem test_msb : see (exec (.msb 4 5) { at2000 [(4, 0x00010000), (5, 0x8000)] 0x9C01 with machi := 0, maclo := 0 }) mac =
    some (0, 0x80000000, 0x9C01) := by decide
theorem test_macrc : see (exec (.macrc 3) { at2000 [] 0x8001 with machi := 0x12, maclo := 0x89ABCDEF }) (fun t => (t.reg 3, mac t)) =
    some (0x89ABCDEF, 0, 0, 0x8001) := by decide

/-! ### Loads and stores (B8, B14): r4 = 0x3000, words 0x12345678 and 0x80FF7F01 there; stores of r5 = 0xAABBCCDD -/

theorem test_lwz : see (exec (.lwz 3 4 0) withData) alu = some (0x12345678, 0x8001, 0x2004) := by decide
theorem test_lws : see (exec (.lws 3 4 4) withData) alu = some (0x80FF7F01, 0x8001, 0x2004) := by decide
theorem test_lbz : see (exec (.lbz 3 4 5) withData) alu = some (0x000000FF, 0x8001, 0x2004) := by decide
theorem test_lbs : see (exec (.lbs 3 4 4) withData) alu = some (0xFFFFFF80, 0x8001, 0x2004) := by decide
theorem test_lhz : see (exec (.lhz 3 4 4) withData) alu = some (0x000080FF, 0x8001, 0x2004) := by decide
theorem test_lhs : see (exec (.lhs 3 4 4) withData) alu = some (0xFFFF80FF, 0x8001, 0x2004) := by decide
theorem test_lwz_misaligned : see (exec (.lwz 3 4 2) withData) (fun t => (t.pc, t.epcr0, t.eear0, t.reg 3)) =
    some (0x0600, 0x2000, 0x3002, 0) := by decide
theorem test_lhs_misaligned : see (exec (.lhs 3 4 3) withData) (fun t => (t.pc, t.epcr0, t.eear0, t.reg 3)) =
    some (0x0600, 0x2000, 0x3003, 0) := by decide
theorem test_sw : see (exec (.sw 4 5 0xFFFC) (withData.setReg 4 0x3004)) (fun t => (t.load4 0x3000, t.load4 0x3004)) =
    some (0xAABBCCDD, 0x80FF7F01) := by decide
theorem test_sh : see (exec (.sh 4 5 2) (withData.setReg 4 0x3004)) (fun t => (t.load4 0x3000, t.load4 0x3004)) =
    some (0x12345678, 0x80FFCCDD) := by decide
theorem test_sb : see (exec (.sb 4 5 3) (withData.setReg 4 0x3004)) (fun t => (t.load4 0x3000, t.load4 0x3004)) =
    some (0x12345678, 0x80FF7FDD) := by decide
theorem test_sw_same_register : see (exec (.sw 4 4 0) withData) (fun t => (t.load4 0x3000, t.stored)) =
    some (0x3000, [0x3000, 0x3001, 0x3002, 0x3003]) := by decide
theorem test_lws_same_register : see (exec (.lws 4 4 4) withData) (fun t => t.reg 4) = some 0x80FF7F01 := by decide
theorem test_lbz_outside_map : refusal (exec (.lbz 3 0 0xFFFF) { withData with memMap := [⟨0, 0x10000, .memory⟩] }) =
    some .accessOutsideMemoryMap := by decide
theorem test_sb_device : see (exec (.sb 4 5 3) { withData with memMap := [⟨0x3003, 1, .device⟩] }) (fun t => (t.pc, t.stored)) =
    some (0x2004, [0x3003]) := by decide
theorem test_lhz_device : see (exec (.lhz 3 4 2) { withData with memMap := [⟨0x3002, 1, .memory⟩, ⟨0x3003, 1, .device⟩] })
    (fun t => (t.pc, t.draws)) = some (0x2004, 1) := by decide

/-! ### Exceptions, return, SPR access (B10, B11, B13) -/

theorem test_sys : see (exec (.sys 0x1234) (at2000 [] 0x8E04)) entry = some (0x0C00, 0x2004, 0x8E04, 0x8E01) := by decide
theorem test_trap : see (exec (.trap 0) (at2000 [] 0x8005)) entry = some (0x0E00, 0x2000, 0x8005, 0x8001) := by decide
theorem test_trap_in_slot : see (exec (.trap 0) { at2000 [] 0x8001 with delay := some 0x3000 }) entry =
    some (0x0E00, 0x1FFC, 0xA001, 0xA001) := by decide
theorem test_rfe : see (exec .rfe { at2000 [] 0x8001 with epcr0 := 0x2004, esr0 := 0x8004 }) (fun t => (t.pc, t.readSR)) =
    some (0x2004, 0x8004) := by decide
theorem test_rfe_user : refusal (exec .rfe { at2000 [] 0x8000 with epcr0 := 0x2004 }) = some .privilegedInUserMode := by decide
theorem test_mfspr_or : see (exec (.mfspr 3 4 0x0011) (at2000 [(4, 0x00010011)] 0x8E01)) alu = some (0x8E01, 0x8E01, 0x2004) := by decide
theorem test_mfspr_tick_timer : refusal (exec (.mfspr 3 0 0x5000) (at2000 [] 0x8001)) = some .sprNotModelled := by decide
theorem test_mtspr_sr : see (exec (.mtspr 0 3 0x0011) (at2000 [(3, 0x00000005)] 0x8001)) (fun t => (t.readSR, t.pc)) =
    some (0x8005, 0x2004) := by decide
theorem test_mtspr_picsr : see (exec (.mtspr 0 3 0x4802) { at2000 [(3, 1)] 0x8001 with ium := 1, picsr := 5 })
    (fun t => (t.picmr, t.picsr)) =
    some (7, 1) := by decide
theorem test_nop : see (exec (.nop 1) (at2000 [] 0x8001)) flow = some (0x2004, none, 0) := by decide
theorem test_msync : see (exec (.msync) (at2000 [] 0x8001)) flow = some (0x2004, none, 0) := by decide
theorem test_psync : see (exec (.psync) (at2000 [] 0x8001)) flow = some (0x2004, none, 0) := by decide
theorem test_csync : see (exec (.csync) (at2000 [] 0x8001)) flow = some (0x2004, none, 0) := by decide

/-! ### Floating point (B7), r0 (B12) -/

theorem test_maddS_absent : see (exec (.maddS 3 4 5) (at2000 [] 0x8001)) entry = some (0x0700, 0x2000, 0x8001, 0x8001) := by decide
theorem test_maddD : see (exec (.maddD 0 0 5) (at2000 [] 0x8001)) entry = some (0x0700, 0x2000, 0x8001, 0x8001) := by decide
theorem test_write_to_r0 : refusal (exec (.movhi 0 1) (at2000 [] 0x8001)) = some .nonZeroWriteToR0 := by decide
theorem test_zero_to_r0 : see (exec (.and 0 3 4) (at2000 [(3, 1), (4, 2)] 0x8401)) (fun t => (t.reg 0, t.readSR)) =
    some (0, 0x8401) := by decide

/-! ### Steps: the fetch, interrupts (B11, B12), reset -/

theorem test_reserved_bit : refusal (step (fetches 0xE0642C00 (at2000 [] 0x8001))) = some .reservedBitsSet := by decide
theorem test_custom : refusal (step (fetches 0xFFFFFFFF (at2000 [] 0x8001))) = some .customInstruction := by decide
theorem test_no_such_instruction : refusal (step (fetches 0xE0642900 (at2000 [] 0x8001))) = some .noSuchInstruction := by decide
theorem test_interrupt_in_slot : see (step { fetches 0x15000000 (at2000 [] 0x8005) with
    pc := 0x2004, delay := some 0x3000, ium := 1, inputs := [⟨4, true⟩] }) (fun t => (entry t, t.picsr, t.delay)) =
    some ((0x0800, 0x2000, 0xA005, 0xA001), 4, none) := by decide
theorem test_interrupt_waits : see (step { fetches 0x15000000 (at2000 [] 0x8005) with ium := 1, inputs := [⟨4, false⟩] })
    (fun t => (t.pc, t.readSR, t.picsr)) = some (0x2004, 0x8005, 4) := by decide
theorem test_first_instruction : see (step (State.reset.withFetchWord 32 0x9C600007)) (fun t => (t.reg 3, t.pc)) =
    some (7, 0x0104) := by decide
theorem test_table_word : decodeTableWord 32 0x9C600007 = some (.addi 3 0 7) := by decide
theorem test_table_word_reserved : decodeTableWord 32 0xE0642C00 = none := by decide

/-! ## Witnesses: states and operands that meet the hypotheses of the statements, each clause with its own -/

/-- An outcome that shows something is a next state that shows it. -/
theorem next_of_see {α : Type} {r : Result} {f : State → α} {v : α} (h : see r f = some v) : ∃ t, r = .next t ∧ f t = v := by
  cases r with
  | next t => exact ⟨t, rfl, by simpa [see] using h⟩
  | fault _ => cases h
  | refused _ => cases h

/-- A state with a target pending. -/
def inSlotAt (s : State) : State := { s with delay := some 0x3000 }

/-! ### Encoding and the step -/

theorem witness_DecodeEncodeRoundTrip : (Instr.rori 31 31 31).wellFormed = true := by decide
theorem witness_EncodeDecodeRoundTrip : decodeWord 0xB864001F = .ok (.slli 3 4 31) := by decide
theorem witness_ReservedBitsRefused_encoder :
    (Instr.add 31 31 31).wellFormed = true ∧ rowAdd ∈ table ∧ rowAdd.selects (encode (.add 31 31 31)) = true :=
  ⟨by decide, by simp [table, tableRRR], by decide⟩
theorem witness_ReservedBitsRefused_fetch :
    let s := fetches 0xE0642C00 (at2000 [] 0x8001)
    rowAdd ∈ table ∧ rowAdd.selects (s.load4 s.pc) = true ∧ s.load4 s.pc &&& rowAdd.reserved ≠ 0 ∧ s.noInterrupt ∧ s.fetchable :=
  ⟨by simp [table, tableRRR], by decide, by decide, rfl, (fetchable_iff _).mpr (by decide)⟩
theorem witness_CustomWordsRefused_first :
    let s := fetches 0x70000000 (at2000 [] 0x8001)
    majorOpcode (s.load4 s.pc) ∈ ([0x1c, 0x1d, 0x1e, 0x1f, 0x3c, 0x3d, 0x3e, 0x3f] : List (BitVec 6)) ∧ s.noInterrupt ∧ s.fetchable ∧
      s.build.undecoded = .refuse := ⟨by decide, rfl, (fetchable_iff _).mpr (by decide), by decide⟩
theorem witness_CustomWordsRefused_last :
    let s := fetches 0xFFFFFFFF (at2000 [] 0x8001)
    majorOpcode (s.load4 s.pc) ∈ ([0x1c, 0x1d, 0x1e, 0x1f, 0x3c, 0x3d, 0x3e, 0x3f] : List (BitVec 6)) ∧ s.noInterrupt ∧ s.fetchable ∧
      s.build.undecoded = .refuse := ⟨by decide, rfl, (fetchable_iff _).mpr (by decide), by decide⟩
theorem witness_UnmatchedWords (p : UndecodedPolicy) :
    let s := { fetches 0xE0642900 (at2000 [] 0x8001) with build := { testBuild with undecoded := p } }
    (∀ r ∈ table, r.selects (s.load4 s.pc) = false) ∧ s.noInterrupt ∧ s.fetchable ∧ s.build.undecoded = p := by
  have h : (fetches 0xE0642900 (at2000 [] 0x8001)).load4 0x2000 = 0xE0642900 := by decide
  have hf : ((fetches 0xE0642900 (at2000 [] 0x8001)).isMemory 0x2000 4 = true) ∧
      (fetches 0xE0642900 (at2000 [] 0x8001)).fetchesStored = false := by decide
  refine ⟨?_, by cases p <;> rfl, (fetchable_iff _).mpr hf, rfl⟩
  change ∀ r ∈ table, r.selects ((fetches 0xE0642900 (at2000 [] 0x8001)).load4 0x2000) = false
  rw [h]; decide
theorem witness_UnmatchedWords_custom (p : UndecodedPolicy) :
    let s := { fetches 0xFC000000 (at2000 [] 0x8001) with build := { testBuild with undecoded := p } }
    (∀ r ∈ table, r.selects (s.load4 s.pc) = false) ∧ s.noInterrupt ∧ s.fetchable ∧ s.build.undecoded = p := by
  have h : (fetches 0xFC000000 (at2000 [] 0x8001)).load4 0x2000 = 0xFC000000 := by decide
  have hf : ((fetches 0xFC000000 (at2000 [] 0x8001)).isMemory 0x2000 4 = true) ∧
      (fetches 0xFC000000 (at2000 [] 0x8001)).fetchesStored = false := by decide
  refine ⟨?_, by cases p <;> rfl, (fetchable_iff _).mpr hf, rfl⟩
  change ∀ r ∈ table, r.selects ((fetches 0xFC000000 (at2000 [] 0x8001)).load4 0x2000) = false
  rw [h]; decide
theorem witness_StepRunsDecoded :
    let s := fetches 0xE0642800 (at2000 [(4, 1), (5, 2)] 0x8001)
    decodeWord (s.load4 s.pc) = .ok (.add 3 4 5) ∧ s.noInterrupt ∧ s.fetchable :=
  ⟨by decide, rfl, (fetchable_iff _).mpr (by decide)⟩
theorem witness_FetchStops_unmapped :
    let s := { at2000 [] 0x8001 with memMap := [⟨0, 0x2003, .memory⟩] }
    s.noInterrupt ∧ ∃ a ∈ span s.pc 4, s.kindAt a = none := ⟨rfl, (exists_unmapped_iff _ _ _).mpr (by decide)⟩
theorem witness_FetchStops_device :
    let s := { at2000 [] 0x8001 with memMap := [⟨0, 0x2003, .memory⟩, ⟨0x2003, 1, .device⟩] }
    s.noInterrupt ∧ (∀ a ∈ span s.pc 4, s.kindAt a ≠ none) ∧ ∃ a ∈ span s.pc 4, s.kindAt a = some .device :=
  ⟨rfl, (isMapped_iff _ _ _).mp (by decide), 0x2003, by decide, by decide⟩
theorem witness_StoredCodeIsNotFetched_store : ∀ p ∈ ([(.sb 4 5 7, 1), (.sh 4 5 6, 2), (.sw 4 5 4, 4)] : List (Instr × Nat)),
    (withData.effective 4 (if p.2 = 1 then 7 else if p.2 = 2 then 6 else 4)).toNat % p.2 = 0 ∧
      see (exec p.1 withData) (fun t => t.stored.length) = some p.2 := by decide
theorem witness_StoredCodeIsNotFetched_step :
    let s := { fetches 0xE0642800 (at2000 [] 0x8001) with stored := [0x3000] }
    see (step s) (fun t => t.stored) = some [0x3000] ∧ 0x3000 ∈ s.stored := by decide
theorem witness_StoredCodeIsNotFetched_fetch :
    let s := { fetches 0xE0642800 (at2000 [] 0x8001) with stored := [0x2003] }
    s.noInterrupt ∧ (∀ a ∈ span s.pc 4, s.kindAt a = some .memory) ∧ ∃ a ∈ span s.pc 4, a.toNat ∈ s.stored :=
  ⟨rfl, (isMemory_iff _ _ _).mp (by decide), 0x2003, by decide, by decide⟩

/-! ### Interrupts -/

/-- A step with line 2 asserted. -/
def withLine (sr : Word) (ium : BitVec 30) (picsr : Word) (take : Bool) : State :=
  { fetches 0x15000000 (at2000 [] sr) with ium := ium, picsr := picsr, inputs := [⟨4, take⟩] }

theorem witness_InterruptDecision_disabled :
    let s := withLine 0x8001 1 0 true
    s.build.hasPic = true ∧ s.srBit SR.IEE = false ∧ s.sample.picsr = 4 := by decide
theorem witness_InterruptDecision_noPic :
    let s := { withLine 0x8005 1 8 true with build := { testBuild with hasPic := false } }
    s.build.hasPic = false ∧ s.srBit SR.IEE = true ∧ s.sample.picsr = 8 := by decide
theorem witness_InterruptDecision_none :
    let s := withLine 0x8005 0 0 true
    s.build.hasPic = true ∧ s.srBit SR.IEE = true ∧ s.sample.picsr = 0 := by decide
theorem witness_InterruptDecision_masked :
    let s := withLine 0x8005 0 8 true
    s.build.hasPic = true ∧ s.srBit SR.IEE = true ∧ s.sample.picsr = 8 ∧ s.picmr = 3 := by decide
theorem witness_InterruptDecision_pending : ∀ take : Bool,
    let s := withLine 0x8005 1 0 take
    s.build.hasPic = true ∧ s.srBit SR.IEE = true ∧ s.sample.picsr = 4 ∧ s.picmr = 7 ∧ s.nextInput.takeIrq = take := by decide
theorem witness_PicLatch : let s := withLine 0x8001 1 8 true; s.build.hasPic = true ∧ s.sample.picsr = 12 := by decide
theorem witness_PicLatch_step :
    let s := withLine 0x8001 1 8 true
    (∃ t, step s = .next t ∧ t.picsr = 12) ∧ decodeWord (s.load4 s.pc) = .ok (.nop 0) := ⟨next_of_see (by decide), by decide⟩
theorem witness_PicLatch_cleared :
    let s := { fetches 0xC1200002 (at2000 [] 0x8001) with picsr := 0x80000001 }
    see (step s) (fun t => t.picsr) = some 0 ∧ s.picsr.getLsbD 31 = true := by decide
theorem witness_PicsrWrite_refused :
    let s := { at2000 [(3, 0x80000000)] 0x8001 with picsr := 1 }
    s.supervisor = true ∧ s.build.hasPic = true ∧ s.sprIndex 0 0x4802 = 0x4802 ∧
      ∃ j ∈ List.range 32, (s.reg 3).getLsbD j = true ∧ s.picsr.getLsbD j = false := by decide
theorem witness_PicsrWrite :
    let s := { at2000 [(3, 1)] 0x8001 with picsr := 5, ium := 1, irq := 4 }
    s.supervisor = true ∧ s.build.hasPic = true ∧ s.sprIndex 0 0x4802 = 0x4802 ∧
      ¬∃ j ∈ List.range 32, (s.reg 3).getLsbD j = true ∧ s.picsr.getLsbD j = false := by decide

/-! ### Exceptions and modes -/

theorem witness_SystemCallAndTrap :
    (at2000 [] 0x8001).delay = none ∧ (inSlotAt (at2000 [] 0x8001)).delay ≠ none := by decide
theorem witness_IllegalInstructionCauses :
    (at2000 [] 0x8001).build.implementsMaddS = false ∧ (at2000 [] 0x8001).delay = none := by decide

/-- A state that returns to the address from the SR given. -/
def returning (pc sr : Word) : State := { fetches 0x24000000 (at2000 [] 0x8001) with epcr0 := pc, esr0 := sr }

theorem witness_RfeReturns :
    let s := returning 0xFFFFFFFC 0x0000BE05
    s.supervisor = true ∧ s.delay = none ∧ s.epcr0.toNat % 4 = 0 ∧ ∀ i, i ∉ SR.modelled → s.esr0.getLsbD i = false :=
  ⟨by decide, by decide, by decide, (notModelled_iff _).mp (by decide)⟩
theorem witness_RfeRefused_misaligned :
    let s := returning 0x2003 0x8001
    s.supervisor = true ∧ s.epcr0.toNat % 4 ≠ 0 := by decide
theorem witness_RfeRefused_field :
    let s := returning 0x2000 0x8003
    s.supervisor = true ∧ s.epcr0.toNat % 4 = 0 ∧ ∃ i ∈ List.range 32, i ∉ SR.modelled ∧ s.esr0.getLsbD i = true :=
  ⟨by decide, by decide, 1, by decide, by decide, by decide⟩
theorem witness_RfeRefused_slot :
    let s := inSlotAt (returning 0x2000 0x8001)
    s.supervisor = true ∧ s.epcr0.toNat % 4 = 0 ∧ (∀ i, i ∉ SR.modelled → s.esr0.getLsbD i = false) ∧ s.delay ≠ none :=
  ⟨by decide, by decide, (notModelled_iff _).mp (by decide), by decide⟩
theorem witness_UserModePrivilege : (at2000 [] 0x8000).srBit SR.SM = false := by decide
theorem witness_ModeChanges_in :
    let s := fetches 0x20000000 (at2000 [] 0x8000)
    s.srBit SR.SM = false ∧ ∃ t, step s = .next t ∧ t.srBit SR.SM = true := ⟨by decide, next_of_see (by decide)⟩
theorem witness_ModeChanges_rfe :
    let s := returning 0x2000 0x8000
    s.srBit SR.SM = true ∧ ∃ t, step s = .next t ∧ t.srBit SR.SM = false := ⟨by decide, next_of_see (by decide)⟩
theorem witness_ModeChanges_mtspr :
    let s := fetches 0xC0001811 (at2000 [(3, 0x8000)] 0x8001)
    s.srBit SR.SM = true ∧ ∃ t, step s = .next t ∧ t.srBit SR.SM = false := ⟨by decide, next_of_see (by decide)⟩
theorem witness_UserModeIsConfined :
    let s := fetches 0xE0642800 (at2000 [(4, 0x7FFFFFFF), (5, 1)] 0x8000)
    s.srBit SR.SM = false ∧ ∃ t, step s = .next t ∧ t.srBit SR.SM = false := ⟨by decide, next_of_see (by decide)⟩
theorem witness_UserModeIsConfined_trap :
    let s := fetches 0x21000000 (at2000 [] 0x8000)
    s.srBit SR.SM = false ∧ ∃ t, step s = .next t ∧ t.srBit SR.SM = true := ⟨by decide, next_of_see (by decide)⟩

/-! ### Jumps -/

theorem witness_DirectJumps : (at2000 [] 0x8001).delay = none := by decide
theorem witness_ConditionalBranches :
    (at2000 [] 0x8001).delay = none ∧ (at2000 [] 0x8001).srBit SR.F = false ∧
    (at2000 [] 0x8201).delay = none ∧ (at2000 [] 0x8201).srBit SR.F = true := by decide
theorem witness_RegisterJumps :
    let s := at2000 [(5, 0xFFFFFFFC)] 0x8001
    s.delay = none ∧ (s.reg 5).toNat % 4 = 0 ∧ (s.reg 9).toNat % 4 = 0 ∧ (5 : Reg) ≠ 9 := by decide
theorem witness_LinkRegisterInDelaySlot :
    let s := at2000 [(5, 0x3000), (9, 0x0AAA)] 0x8001
    s.delay = none ∧ (s.reg 5).toNat % 4 = 0 ∧ (5 : Reg) ≠ 9 ∧ (3 : Reg) ≠ 0 := by decide
theorem witness_MisalignedJumpTarget :
    let s := at2000 [(5, 0xFFFFFFFF), (6, 1), (9, 2)] 0x8001
    s.delay = none ∧ (s.reg 5).extractLsb' 0 2 ≠ 0 ∧ (s.reg 6).extractLsb' 0 2 ≠ 0 ∧ (s.reg 9).extractLsb' 0 2 ≠ 0 := by decide
theorem witness_JumpInDelaySlotRefused : (inSlotAt (at2000 [] 0x8001)).delay ≠ none := by decide
theorem witness_DelaySlotThenTarget :
    let s := inSlotAt (fetches 0xE0642800 (at2000 [(4, 1), (5, 2)] 0x8001))
    s.delay = some 0x3000 ∧ ∃ t, step s = .next t ∧ t.pc = 0x3000 := ⟨by decide, next_of_see (by decide)⟩
theorem witness_DelaySlotThenTarget_exception :
    let s := inSlotAt (fetches 0x21000000 (at2000 [] 0x8001))
    s.delay = some 0x3000 ∧ ∃ t, step s = .next t ∧ t.pc = 0x0E00 := ⟨by decide, next_of_see (by decide)⟩

/-! ### Arithmetic: an overflow with SR[OVE] = 0, a sum of zero into r0, and an overflow with SR[OVE] = 1 -/

theorem witness_AdditionResults :
    let s := at2000 [(4, 0x7FFFFFFF), (5, 1)] 0x8001
    SignedOverflow ((s.reg 4).toInt + (s.reg 5).toInt) ∧ s.srBit SR.OVE = false ∧ Writable 3 (s.reg 4 + s.reg 5) := by
  unfold SignedOverflow Writable; decide
theorem witness_AdditionResults_carry :
    let s := at2000 [(4, 0x7FFFFFFF), (5, 0)] 0x8401
    s.srBit SR.CY = true ∧ s.srBit SR.OVE = false ∧ Writable 3 (s.reg 4 + s.reg 5 + 1) ∧
      SignedOverflow ((s.reg 4).toInt + (s.reg 5).toInt + 1) := by
  unfold SignedOverflow Writable; decide
theorem witness_AdditionResults_r0 :
    let s := at2000 [(4, 0xFFFFFFFF), (5, 1)] 0x9001
    Writable 0 (s.reg 4 + s.reg 5) ∧ Writable 0 (s.reg 4 + (1 : Half).signExtend 32) ∧
      ¬SignedOverflow ((s.reg 4).toInt + (s.reg 5).toInt) := by
  unfold SignedOverflow Writable; decide
theorem witness_OverflowSignLaw : (3 : Reg) ≠ 0 ∧ (at2000 [(4, 0x80000000), (5, 0xFFFFFFFF)] 0x8C01).srBit SR.OVE = false := by decide
theorem witness_SubtractionResults :
    let s := at2000 [(4, 0x7FFFFFFF), (5, 0xFFFFFFFF)] 0x8001
    Writable 3 (s.reg 4 - s.reg 5) ∧ s.srBit SR.OVE = false ∧ SignedOverflow ((s.reg 4).toInt - (s.reg 5).toInt) ∧
      (s.reg 4).toNat < (s.reg 5).toNat := by
  unfold SignedOverflow Writable; decide
theorem witness_MultiplyResults :
    let s := at2000 [(4, 0x80000000), (5, 0xFFFFFFFF)] 0x8001
    Writable 3 (s.reg 4 * s.reg 5) ∧ s.srBit SR.OVE = false ∧ SignedOverflow ((s.reg 4).toInt * (s.reg 5).toInt) := by
  unfold SignedOverflow Writable; decide
theorem witness_MultiplyResults_otherCarry :
    let s := { at2000 [(4, 0x80000000), (5, 0xFFFFFFFF)] 0x8001 with build := { testBuild with mulCarry := .other } }
    Writable 3 (s.reg 4 * s.reg 5) ∧ s.srBit SR.OVE = false ∧ s.build.mulCarry = .other := by
  unfold Writable; decide
theorem witness_OverflowRaisesRange :
    let s := at2000 [(4, 0x80000000), (5, 0xFFFFFFFF)] 0x9001
    s.srBit SR.OVE = true ∧ SignedOverflow ((s.reg 4).toInt + (s.reg 5).toInt) ∧
      SignedOverflow ((s.reg 4).toInt + ((0xFFFF : Half).signExtend 32).toInt) ∧
      SignedOverflow ((s.reg 4).toInt * (s.reg 5).toInt) ∧ Writable 3 (s.reg 4 + s.reg 5) ∧ Writable 3 (s.reg 4 * s.reg 5) := by
  unfold SignedOverflow Writable; decide
theorem witness_OverflowRaisesRange_carry :
    let s := at2000 [(4, 0x7FFFFFFF), (5, 0)] 0x9401
    s.srBit SR.OVE = true ∧ s.srBit SR.CY = true ∧ Writable 3 (s.reg 4 + s.reg 5 + 1) ∧
      SignedOverflow ((s.reg 4).toInt + (s.reg 5).toInt + 1) := by
  unfold SignedOverflow Writable; decide
theorem witness_OverflowRaisesRange_sub :
    let s := at2000 [(4, 0x80000000), (5, 1)] 0x9001
    s.srBit SR.OVE = true ∧ SignedOverflow ((s.reg 4).toInt - (s.reg 5).toInt) ∧ Writable 3 (s.reg 4 - s.reg 5) := by
  unfold SignedOverflow Writable; decide
theorem witness_DivisionQuotients :
    let s := at2000 [(4, 0x80000000), (5, 1)] 0x9001
    s.reg 5 ≠ 0 ∧ ¬(s.reg 4 = 0x80000000 ∧ s.reg 5 = 0xFFFFFFFF) ∧ Writable 3 (s.reg 4) := by
  unfold Writable; decide
theorem witness_DivisionOpenResults_zero :
    let s := at2000 [(4, 0), (5, 0)] 0x8001
    s.reg 5 = 0 ∧ s.srBit SR.OVE = false ∧ (3 : Reg) ≠ 0 := by decide
theorem witness_DivisionOpenResults_overflow :
    let s := at2000 [(4, 0x80000000), (5, 0xFFFFFFFF)] 0x9001
    s.reg 4 = 0x80000000 ∧ s.reg 5 = 0xFFFFFFFF ∧ (31 : Reg) ≠ 0 := by decide
theorem witness_DivisionByZeroRaisesRange :
    let s := at2000 [(4, 7), (5, 0)] 0x9001
    (3 : Reg) ≠ 0 ∧ s.reg 5 = 0 ∧ s.srBit SR.OVE = true := by decide

/-! ### Bits, logic, shifts -/

theorem witness_FindBits :
    let s := at2000 [(4, 0x80000000)] 0x8001
    ((3 : Reg) = 0 → s.reg 4 = 0) ∧ ((0 : Reg) = 0 → s.reg 0 = 0) ∧ (s.reg 4).getLsbD 31 = true ∧
      (∀ j, j < 31 → (s.reg 4).getLsbD j = false) ∧ ∀ j, 31 < j → (s.reg 4).getLsbD j = false := by
  refine ⟨by decide, by decide, by decide, by decide, fun j hj => BitVec.getLsbD_of_ge _ _ (by omega)⟩
theorem witness_LogicAndMoves :
    let s := at2000 [(4, 0xF0F0F0F0), (5, 0x0F0F0F0F)] 0x8001
    Writable 3 (s.reg 4 ||| s.reg 5) ∧ Writable 0 (s.reg 4 &&& s.reg 5) ∧ Writable 0 ((0 : Half).setWidth 32 * 65536) := by
  unfold Writable; decide
theorem witness_XoriExtensions :
    Writable 3 ((at2000 [(4, 5)] 0x8001).reg 4 ^^^ (0xFFFF : Half).setWidth 32) ∧ (0x7FFF : Half).getLsbD 15 = false := by
  unfold Writable; decide
theorem witness_ShiftResults :
    let s := at2000 [(4, 0x80000000), (5, 31)] 0x8001
    (s.reg 5).toNat % 32 = 31 ∧ Writable 3 (BitVec.ofNat 32 ((s.reg 4).toNat / 2 ^ 31)) ∧
      Writable 0 (BitVec.ofNat 32 ((s.reg 4).toNat * 2 ^ 31)) ∧ ((0 : Reg) = 0 → s.reg 0 = 0) := by
  unfold Writable; decide
theorem witness_CompareResults : (0x7FFF : Half).getLsbD 15 = false ∧ (0x8000 : Half).getLsbD 15 = true := by decide
theorem witness_UnsignedImmediateRefused : (0x8000 : Half).getLsbD 15 = true := by decide
theorem witness_MacReadAndClear :
    Writable 3 (at2000 [] 0x8001).maclo ∧ Writable 0 (at2000 [] 0x8001).maclo := by unfold Writable; decide

/-! ### Loads and stores -/

theorem witness_LoadResults :
    let ea := withData.effective 4 4
    ea.toNat % 4 = 0 ∧ ea.toNat % 2 = 0 ∧ ea.toNat % 1 = 0 ∧ (∀ x ∈ span ea 4, withData.kindAt x = some .memory) ∧
    (∀ x ∈ span ea 2, withData.kindAt x = some .memory) ∧ (∀ x ∈ span ea 1, withData.kindAt x = some .memory) ∧
    Writable 3 (withData.load4 ea) :=
  ⟨by decide, by decide, by decide, (isMemory_iff _ _ _).mp (by decide), (isMemory_iff _ _ _).mp (by decide),
    (isMemory_iff _ _ _).mp (by decide), fun h => absurd h (by decide)⟩
theorem witness_LoadResults_top :
    let s := at2000 [] 0x8001
    let ea := s.effective 0 0xFFFC
    ea.toNat % 4 = 0 ∧ (∀ x ∈ span ea 4, s.kindAt x = some .memory) ∧ Writable 0 (s.load4 ea) :=
  ⟨by decide, (isMemory_iff _ _ _).mp (by decide), fun _ => by decide⟩
theorem witness_StoreResults :
    let ea := withData.effective 4 0xFFFC
    ea.toNat % 4 = 0 ∧ ea.toNat % 2 = 0 ∧ ea.toNat % 1 = 0 ∧ (∀ x ∈ span ea 4, withData.kindAt x = some .memory) ∧
    (∀ x ∈ span ea 2, withData.kindAt x = some .memory) ∧ (∀ x ∈ span ea 1, withData.kindAt x = some .memory) ∧ withData.mem.wf = true :=
  ⟨by decide, by decide, by decide, (isMemory_iff _ _ _).mp (by decide), (isMemory_iff _ _ _).mp (by decide),
    (isMemory_iff _ _ _).mp (by decide), by decide⟩
/-- The same data with a peripheral's window at 0x3003. -/
def withDevice : State := { withData with memMap := [⟨0, 0x3003, .memory⟩, ⟨0x3003, 1, .device⟩] }

theorem witness_MisalignedAccess :
    (withData.effective 4 1).toNat % 4 ≠ 0 ∧ (withData.effective 4 2).toNat % 4 ≠ 0 ∧ (withData.effective 4 3).toNat % 4 ≠ 0 ∧
    (withData.effective 4 3).toNat % 2 ≠ 0 ∧ withData.kindAt (withData.effective 4 3) ≠ none ∧
    withDevice.kindAt (withDevice.effective 4 3) ≠ none ∧ (3 : Reg) ≠ 0 := by decide
theorem witness_AccessOutsideMemory_unmapped :
    let s := { withData with memMap := [⟨0, 0x3003, .memory⟩] }
    (s.effective 4 0).toNat % 4 = 0 ∧ (∃ x ∈ span (s.effective 4 0) 4, s.kindAt x = none) ∧
    (s.effective 4 2).toNat % 2 = 0 ∧ (∃ x ∈ span (s.effective 4 2) 2, s.kindAt x = none) ∧
    (s.effective 4 3).toNat % 1 = 0 ∧ ∃ x ∈ span (s.effective 4 3) 1, s.kindAt x = none :=
  ⟨by decide, (exists_unmapped_iff _ _ _).mpr (by decide), by decide, (exists_unmapped_iff _ _ _).mpr (by decide), by decide,
    (exists_unmapped_iff _ _ _).mpr (by decide)⟩
theorem witness_AccessOutsideMemory_device :
    ∀ p ∈ ([(0, 4), (2, 2), (3, 1)] : List (Half × Nat)), (withDevice.effective 4 p.1).toNat % p.2 = 0 ∧
      (∀ x ∈ span (withDevice.effective 4 p.1) p.2, withDevice.kindAt x ≠ none) ∧
      ∃ x ∈ span (withDevice.effective 4 p.1) p.2, withDevice.kindAt x = some .device := by
  have h : ∀ p ∈ ([(0, 4), (2, 2), (3, 1)] : List (Half × Nat)), (withDevice.effective 4 p.1).toNat % p.2 = 0 ∧
      withDevice.isMapped (withDevice.effective 4 p.1) p.2 = true ∧ withDevice.isMemory (withDevice.effective 4 p.1) p.2 = false := by
    decide
  exact fun p hp => ⟨(h p hp).1, (isMapped_iff _ _ _).mp (h p hp).2.1, (exists_device_iff (h p hp).2.1).mpr (h p hp).2.2⟩
theorem witness_BigEndianMixedWidths :
    withData.mem.wf = true ∧ (withData.effective 4 0).toNat % 4 = 0 ∧
    (∀ x ∈ span (withData.effective 4 0) 4, withData.kindAt x = some .memory) ∧ (3 : Reg) ≠ 0 ∧
    (∃ t, exec (.sw 4 5 0) withData = .next t ∧ t.effective 4 0 = withData.effective 4 0) ∧
    ∃ t, exec (.sw 4 5 0) withData = .next t ∧ t.effective 4 2 = withData.effective 4 0 + 2 :=
  ⟨by decide, by decide, (isMemory_iff _ _ _).mp (by decide), by decide, next_of_see (by decide), next_of_see (by decide)⟩

/-! ### Special-purpose registers -/

theorem witness_MfsprReads :
    let s := at2000 [(4, 0x4800)] 0x8001
    s.supervisor = true ∧ s.build.hasPic = true ∧ s.sprIndex 0 0x0000 = 0x0000 ∧ s.sprIndex 0 0x2802 = 0x2802 ∧
      s.sprIndex 4 0x0002 = 0x4802 ∧
      Writable 0 s.machi ∧ Writable 3 s.picmr := by
  unfold Writable; decide
theorem witness_MtsprWrites :
    let s := at2000 [] 0x8001
    s.supervisor = true ∧ s.sprIndex 0 0x0014 = 0x0014 ∧ s.sprIndex 0 0x0020 = 0x0020 ∧ s.sprIndex 0 0x0030 = 0x0030 ∧
      s.sprIndex 0 0x0040 = 0x0040 ∧ s.sprIndex 0 0x2801 = 0x2801 ∧ s.sprIndex 0 0x2802 = 0x2802 := by decide
theorem witness_MtsprSr :
    let s := at2000 [(3, 0x00003E05)] 0x8001
    s.supervisor = true ∧ s.sprIndex 0 0x0011 = 0x0011 ∧ ∀ i, i ∉ SR.modelled → (s.reg 3).getLsbD i = false :=
  ⟨by decide, by decide, (notModelled_iff _).mp (by decide)⟩
theorem witness_MtsprSr_refused :
    let s := at2000 [(3, 0x00010001)] 0x8001
    s.supervisor = true ∧ s.sprIndex 0 0x0011 = 0x0011 ∧ ∃ i ∈ List.range 32, i ∉ SR.modelled ∧ (s.reg 3).getLsbD i = true :=
  ⟨by decide, by decide, 16, by decide, by decide, by decide⟩
theorem witness_MtsprPicmr :
    let s := at2000 [(3, 0xFFFFFFFF)] 0x8001
    s.supervisor = true ∧ s.build.hasPic = true ∧ s.sprIndex 0 0x4800 = 0x4800 := by decide
theorem witness_SprRefusals :
    let s := at2000 [] 0x8001
    s.supervisor = true ∧ s.sprIndex 0 0x0010 = 0x0010 ∧ s.sprIndex 0 0x0012 = 0x0012 ∧ s.sprIndex 0 0x0002 = 0x0002 ∧
      s.sprIndex 0 0x0003 ∉ ([0x0011, 0x0014, 0x0020, 0x0030, 0x0040, 0x2801, 0x2802, 0x4800, 0x4802] : List (BitVec 16)) := by decide
theorem witness_SprRefusals_noPic :
    let s := { at2000 [] 0x8001 with build := { testBuild with hasPic := false } }
    s.supervisor = true ∧ s.build.hasPic = false ∧ s.sprIndex 0 0x4802 = 0x4802 := by decide

/-! ### Floating point, r0, invariants -/

/-- A build that has lf.madd.s. -/
def withMaddS (fpcsr : BitVec 12) : State :=
  { at2000 [(3, 1)] 0x8001 with build := { testBuild with implementsMaddS := true }, fpcsr := fpcsr }

theorem witness_MultiplyAddSingle :
    (withMaddS 0xFFE).build.implementsMaddS = true ∧
      ((3 : Reg) = 0 → (withMaddS 0xFFE).reg 3 = 0) ∧ (withMaddS 0xFFE).fpcsr.getLsbD 0 = false := by
  decide
theorem witness_MultiplyAddSingleRaises :
    (withMaddS 1).build.implementsMaddS = true ∧ (withMaddS 1).fpcsr.getLsbD 0 = true ∧ (withMaddS 1).delay = none ∧
      (inSlotAt (withMaddS 1)).fpcsr.getLsbD 0 = true ∧ (inSlotAt (withMaddS 1)).delay ≠ none ∧ ∀ v, Writable 3 v := by
  refine ⟨by decide, by decide, by decide, by decide, by decide, fun v h => absurd h (by decide)⟩
theorem witness_NonZeroWriteToR0Refused :
    let s := at2000 [(4, 6), (5, 2)] 0x8401
    s.reg 4 + s.reg 5 ≠ 0 ∧ s.reg 4 + s.reg 5 + (BitVec.ofBool (s.srBit SR.CY)).setWidth 32 ≠ 0 ∧ s.reg 4 - s.reg 5 ≠ 0 ∧
      s.reg 4 * s.reg 5 ≠ 0 ∧ s.reg 4 + (1 : Half).signExtend 32 ≠ 0 ∧ s.reg 4 * (1 : Half).signExtend 32 ≠ 0 ∧
      (s.reg 4).toInt.natAbs / (s.reg 5).toInt.natAbs = 3 ∧ (s.reg 4).toNat / (s.reg 5).toNat ≠ 0 ∧ s.reg 0 = 0 := by decide
theorem witness_NonZeroWriteToR0Refused_open :
    let s := at2000 [(4, 0x80000000), (5, 0xFFFFFFFF)] 0x9001
    s.reg 4 = 0x80000000 ∧ s.reg 5 = 0xFFFFFFFF ∧ s.reg 6 = 0 ∧ s.srBit SR.OVE = true := by decide
theorem witness_NonZeroWriteToR0Refused_bits :
    let s := at2000 [(4, 6), (5, 2)] 0x8201
    s.reg 4 &&& s.reg 5 ≠ 0 ∧ s.reg 4 ||| s.reg 5 ≠ 0 ∧ s.reg 4 ^^^ s.reg 5 ≠ 0 ∧ s.reg 4 &&& (2 : Half).setWidth 32 ≠ 0 ∧
      s.reg 4 ||| (1 : Half).setWidth 32 ≠ 0 ∧ s.reg 4 ^^^ (1 : Half).setWidth 32 ≠ 0 ∧ (if s.srBit SR.F then s.reg 4 else s.reg 5) ≠ 0 ∧
      (s.reg 4).setWidth 16 ≠ 0 ∧ (s.reg 4).setWidth 8 ≠ 0 ∧ BitVec.ofNat 32 ((s.reg 4).toNat * 2 ^ 2) ≠ 0 ∧
      (s.reg 4).toNat / 2 ^ ((s.reg 5).toNat % 32) ≠ 0 ∧ (s.reg 4).toInt / 2 ^ ((s.reg 5).toNat % 32) ≠ 0 := by decide
theorem witness_NonZeroWriteToR0Refused_load :
    let ea := withData.effective 4 4
    ea.toNat % 4 = 0 ∧ (∀ x ∈ span ea 4, withData.kindAt x = some .memory) ∧ (∀ x ∈ span ea 2, withData.kindAt x = some .memory) ∧
      (∀ x ∈ span ea 1, withData.kindAt x = some .memory) ∧ withData.byteAt ea ≠ 0 ∧ withData.load4 ea ≠ 0 :=
  ⟨by decide, (isMemory_iff _ _ _).mp (by decide), (isMemory_iff _ _ _).mp (by decide), (isMemory_iff _ _ _).mp (by decide), by decide,
    by decide⟩
theorem witness_NonZeroWriteToR0Refused_spr :
    let s := { at2000 [] 0x8001 with maclo := 1 }
    s.supervisor = true ∧ s.build.vr ≠ 0 ∧ s.sprIndex 0 0x0000 = 0x0000 ∧ s.sprIndex 0 0x2801 = 0x2801 ∧ s.maclo ≠ 0 ∧
      s.sprIndex 0 0x4800 = 0x4800 ∧ s.picmr ≠ 0 ∧
      s.build.hasPic = true := by decide
theorem witness_NonZeroWriteToR0Refused_float : (withMaddS 0).build.implementsMaddS = true := by decide
theorem witness_R0HoldsNoNewNonZero :
    let s := fetches 0xE0032000 (at2000 [(0, 5), (3, 1), (4, 0xFFFFFFFF)] 0x8001)
    s.reg 0 = 5 ∧ ∃ t, step s = .next t ∧ t.reg 0 = 0 := ⟨by decide, next_of_see (by decide)⟩
theorem witness_StepKeepsInvariant :
    let s := inSlotAt (fetches 0xD4042800 { withData with ium := 0x3FFFFFFF })
    s.Inv ∧ ∃ t, step s = .next t ∧ t.pc = 0x3000 := by
  refine ⟨⟨by decide, by decide, by decide, ?_, by decide, by decide, by decide⟩, next_of_see (by decide)⟩
  intro t ht
  have : t = 0x3000 := by injection ht with ht; exact ht.symm
  subst this; decide

end Sys2Proof.Machine
end

section
/-! PROOFS, 20_memory.md. R61: what a store adds to the addresses stored to since launch, that no step takes one away, and the refused fetch.
R53: the register jumps raise Alignment at a target that is not word aligned. -/

namespace Sys2Proof.Machine

/-! ## The addresses stored to since launch (20_memory.md R61) -/

/-- Which addresses a byte store adds to the stored ones; `mem_store4_stored` is the same of a word store. -/
theorem mem_store1_stored (s : State) (a : Word) (v : Byte) (x : Nat) :
    x ∈ (s.store1 a v).stored ↔ x ∈ (span a 1).map BitVec.toNat ∨ x ∈ s.stored := by
  simp [State.store1, mem_addAddress, span]

/-- Which addresses a half-word store adds to the stored ones. -/
theorem mem_store2_stored (s : State) (a : Word) (v : BitVec 16) (x : Nat) :
    x ∈ (s.store2 a v).stored ↔ x ∈ (span a 2).map BitVec.toNat ∨ x ∈ s.stored := by
  simp [State.store2, mem_addAddress, span, List.range, List.range.loop]; tauto

/-- An aligned access that completes has run its body. -/
theorem withAccess_next {n : Nat} {ea : Word} {s t : State} {k : Result} (ha : ea.toNat % n = 0)
    (h : withAccess n ea s k = .next t) : k = .next t := by
  cases hm : s.isMapped ea n with
  | true => rwa [withAccess_completes s k ha hm] at h
  | false => rw [withAccess_unmapped s k ha hm] at h; cases h

/-- An aligned store that completes has recorded its span, where `u`, the state with its bytes written, has. -/
theorem span_stored_of_access {n : Nat} {ea : Word} {s t u : State} (ha : ea.toNat % n = 0)
    (hu : ∀ x ∈ (span ea n).map BitVec.toNat, x ∈ u.stored) (h : withAccess n ea s (.next u.advance) = .next t) :
    ∀ x ∈ span ea n, x.toNat ∈ t.stored := by
  have ht := withAccess_next ha h
  injection ht with ht
  intro x hx
  rw [← ht, advance_stored]
  exact hu _ (List.mem_map_of_mem hx)

theorem stored_subset_setByte (s : State) (a : Word) (v : Byte) : s.stored ⊆ (s.setByte a v).stored :=
  fun x hx => (mem_addAddress s.stored a.toNat x).mpr (.inr hx)

theorem writeSpr_stored {s u : State} {v : Word} {r : Spr} (h : s.writeSpr v r = .ok u) : u.stored = s.stored := by
  obtain ⟨-, -, -, -, hstored, -⟩ := writeSpr_same h
  exact hstored

/-- Of the updates an instruction is made of, the write of a byte alone touches the stored addresses, and it only adds one. -/
theorem execRule_stored_subset (i : Instr) (s : State) :
    ExecRule (fun u => s.stored ⊆ u.stored) (fun u => s.stored ⊆ u.stored) i s where
  start := List.Subset.refl _
  setReg _ _ _ hu _ := hu
  draw _ hu := hu
  setCyOv _ _ _ hu := hu
  setFlag _ _ hu := hu
  setAcc _ _ hu := hu
  setFpFlags _ _ hu := hu
  setByte u a v hu := List.Subset.trans hu (stored_subset_setByte u a v)
  advance u hu := by rwa [advance_stored]
  enter u e hu _ := by rwa [enter_stored]
  jump _ _ hu _ _ := hu
  rfe _ _ _ _ _ := List.Subset.refl _
  mtspr a b k _ _ r u _ hw := by rw [advance_stored, writeSpr_stored hw]; exact List.Subset.refl _

/-- No step forgets an address that was stored to. -/
theorem step_stored_subset {s t : State} (h : step s = .next t) : s.stored ⊆ t.stored :=
  ensures_step (P := fun u => s.stored ⊆ u.stored)
    (by rw [enter_stored, sample_stored]; exact List.Subset.refl _)
    (by rw [enter_stored, sample_stored]; exact List.Subset.refl _)
    (fun i _ => ensures_exec (execRule_stored_subset i s.sample)) t h

/-! ## The fetch of stored bytes -/

theorem fetchesStored_iff (s : State) : s.fetchesStored = true ↔ ∃ a ∈ span s.pc 4, a.toNat ∈ s.stored := by
  simp only [State.fetchesStored, List.any_eq_true, List.contains_iff_mem]

theorem fetchInstr_of_fetchesStored {s : State} (hm : s.isMemory s.pc 4 = true) (hs : s.fetchesStored = true) :
    s.fetchInstr = .error (.refused .fetchOfModifiedCode) := by
  simp [State.fetchInstr, isMapped_of_isMemory hm, hm, hs]

/-- A step without an interrupt ends as its fetch does, where that yields no instruction. -/
theorem step_of_fetch_error {s : State} {r : Result} (hn : s.noInterrupt) (hf : s.sample.fetchInstr = .error r) : step s = r := by
  unfold step
  rw [hn, hf]

/-- Settles O9: the bytes of a completed store are in the record, the record only grows, and the fetch tests it after the memory map. -/
theorem storedCodeIsNotFetched : Obligations.StoredCodeIsNotFetched := by
  refine ⟨fun s t a b i p hp ha he => ?_, fun s t h x hx => step_stored_subset h hx, fun s hn hm hs => ?_⟩
  · simp only [List.mem_cons, List.not_mem_nil, or_false] at hp
    obtain rfl | rfl | rfl := hp
    · exact span_stored_of_access ha (fun x hx => (mem_store1_stored s _ _ x).mpr (.inl hx)) he
    · exact span_stored_of_access ha (fun x hx => (mem_store2_stored s _ _ x).mpr (.inl hx)) he
    · exact span_stored_of_access ha (fun x hx => (mem_store4_stored s _ _ x).mpr (.inl hx)) he
  · have memory : s.sample.isMemory s.sample.pc 4 = true := (isMemory_iff _ _ _).mpr hm
    have stored : s.sample.fetchesStored = true := (fetchesStored_iff _).mpr hs
    exact step_of_fetch_error hn (fetchInstr_of_fetchesStored memory stored)

/-! ## Misaligned jump targets (20_memory.md R53) -/

/-- An address is word aligned when its two low bits are 0. -/
theorem alignedTo_four_iff (w : Word) : alignedTo 4 w = true ↔ w.extractLsb' 0 2 = 0 := by
  rw [← BitVec.toNat_inj]
  simp [alignedTo, BitVec.extractLsb'_toNat]

theorem jumpRegister_misaligned {t : Word} (after s : State) (ht : t.extractLsb' 0 2 ≠ 0) :
    jumpRegister t after s = raise (.alignment t) s := by
  have : alignedTo 4 t = false := by rwa [← Bool.not_eq_true, alignedTo_four_iff]
  simp [jumpRegister, this]

theorem exec_jr_misaligned {s : State} {b : Reg} (hd : s.delay = none) (hb : (s.reg b).extractLsb' 0 2 ≠ 0) :
    exec (.jr b) s = raise (.alignment (s.reg b)) s := by
  change outsideSlot s _ = _
  rw [outsideSlot_completes s _ hd, jumpRegister_misaligned s s hb]

/-- l.jalr raises Alignment before it links. -/
theorem exec_jalr_misaligned {s : State} {b : Reg} (h9 : b ≠ 9) (hd : s.delay = none) (hb : (s.reg b).extractLsb' 0 2 ≠ 0) :
    exec (.jalr b) s = raise (.alignment (s.reg b)) s := by
  change outsideSlot s (if b = 9 then _ else _) = _
  rw [outsideSlot_completes s _ hd, if_neg h9, jumpRegister_misaligned s.link s hb]

theorem resumePc_outside_slot {s : State} (hd : s.delay = none) : s.resumePc = s.pc := by
  simp [State.resumePc, State.inSlot, hd]

/-- Settles O24: both jumps raise Alignment from the state before any write of theirs, and trap entry outside a slot saves the pc. -/
theorem misalignedJumpTarget : Obligations.MisalignedJumpTarget := by
  intro s b hd hb ins hins
  have raises : exec ins s = raise (.alignment (s.reg b)) s := by
    by_cases h9 : b = 9
    · rw [if_pos h9, List.mem_singleton] at hins
      rw [hins, exec_jr_misaligned hd hb]
    · rw [if_neg h9, List.mem_pair] at hins
      obtain rfl | rfl := hins
      · exact exec_jr_misaligned hd hb
      · exact exec_jalr_misaligned h9 hd hb
  rw [raises, ← resumePc_outside_slot hd]
  exact alignment_result (s.reg b) s

end Sys2Proof.Machine
end

section
/-! PROOFS, 30_encoding.md. R77: the encoder writes every reserved bit 0, and a fetched word with one set is refused without an exception. -/

namespace Sys2Proof.Machine

/-- The per-instruction laws of the encoder, put together: every well-formed instruction's word selects a row that reads it back. -/
theorem encode_selectsRow : ∀ i : Instr, Laws.SelectsRow.Statement i
  | .add d a b => Laws.SelectsRow.add d a b
  | .addc d a b => Laws.SelectsRow.addc d a b
  | .mul d a b => Laws.SelectsRow.mul d a b
  | .div d a b => Laws.SelectsRow.div d a b
  | .divu d a b => Laws.SelectsRow.divu d a b
  | .mulu d a b => Laws.SelectsRow.mulu d a b
  | .ff1 d a => Laws.SelectsRow.ff1 d a
  | .fl1 d a => Laws.SelectsRow.fl1 d a
  | .addi d a i => Laws.SelectsRow.addi d a i
  | .addic d a i => Laws.SelectsRow.addic d a i
  | .xori d a k => Laws.SelectsRow.xori d a k
  | .muli d a i => Laws.SelectsRow.muli d a i
  | .maci a i => Laws.SelectsRow.maci a i
  | .jr b => Laws.SelectsRow.jr b
  | .jalr b => Laws.SelectsRow.jalr b
  | .maddS d a b => Laws.SelectsRow.maddS d a b
  | .maddD d a b => Laws.SelectsRow.maddD d a b
  | .j n => Laws.SelectsRow.j n
  | .jal n => Laws.SelectsRow.jal n
  | .bnf n => Laws.SelectsRow.bnf n
  | .bf n => Laws.SelectsRow.bf n
  | .nop k => Laws.SelectsRow.nop k
  | .movhi d k => Laws.SelectsRow.movhi d k
  | .macrc d => Laws.SelectsRow.macrc d
  | .sys k => Laws.SelectsRow.sys k
  | .trap k => Laws.SelectsRow.trap k
  | .msync => Laws.SelectsRow.msync
  | .psync => Laws.SelectsRow.psync
  | .csync => Laws.SelectsRow.csync
  | .rfe => Laws.SelectsRow.rfe
  | .lwz d a i => Laws.SelectsRow.lwz d a i
  | .lws d a i => Laws.SelectsRow.lws d a i
  | .lbz d a i => Laws.SelectsRow.lbz d a i
  | .lbs d a i => Laws.SelectsRow.lbs d a i
  | .lhz d a i => Laws.SelectsRow.lhz d a i
  | .lhs d a i => Laws.SelectsRow.lhs d a i
  | .mfspr d a k => Laws.SelectsRow.mfspr d a k
  | .mtspr a b k => Laws.SelectsRow.mtspr a b k
  | .sw a b i => Laws.SelectsRow.sw a b i
  | .sb a b i => Laws.SelectsRow.sb a b i
  | .sh a b i => Laws.SelectsRow.sh a b i
  | .sub d a b => Laws.SelectsRow.sub d a b
  | .and d a b => Laws.SelectsRow.and d a b
  | .or d a b => Laws.SelectsRow.or d a b
  | .xor d a b => Laws.SelectsRow.xor d a b
  | .cmov d a b => Laws.SelectsRow.cmov d a b
  | .andi d a k => Laws.SelectsRow.andi d a k
  | .ori d a k => Laws.SelectsRow.ori d a k
  | .sll d a b => Laws.SelectsRow.sll d a b
  | .srl d a b => Laws.SelectsRow.srl d a b
  | .sra d a b => Laws.SelectsRow.sra d a b
  | .ror d a b => Laws.SelectsRow.ror d a b
  | .slli d a l => Laws.SelectsRow.slli d a l
  | .srli d a l => Laws.SelectsRow.srli d a l
  | .srai d a l => Laws.SelectsRow.srai d a l
  | .rori d a l => Laws.SelectsRow.rori d a l
  | .exths d a => Laws.SelectsRow.exths d a
  | .extbs d a => Laws.SelectsRow.extbs d a
  | .exthz d a => Laws.SelectsRow.exthz d a
  | .extbz d a => Laws.SelectsRow.extbz d a
  | .extws d a => Laws.SelectsRow.extws d a
  | .extwz d a => Laws.SelectsRow.extwz d a
  | .sfeq a b => Laws.SelectsRow.sfeq a b
  | .sfne a b => Laws.SelectsRow.sfne a b
  | .sfgtu a b => Laws.SelectsRow.sfgtu a b
  | .sfgeu a b => Laws.SelectsRow.sfgeu a b
  | .sfltu a b => Laws.SelectsRow.sfltu a b
  | .sfleu a b => Laws.SelectsRow.sfleu a b
  | .sfgts a b => Laws.SelectsRow.sfgts a b
  | .sfges a b => Laws.SelectsRow.sfges a b
  | .sflts a b => Laws.SelectsRow.sflts a b
  | .sfles a b => Laws.SelectsRow.sfles a b
  | .sfeqi a i => Laws.SelectsRow.sfeqi a i
  | .sfnei a i => Laws.SelectsRow.sfnei a i
  | .sfgtui a i => Laws.SelectsRow.sfgtui a i
  | .sfgeui a i => Laws.SelectsRow.sfgeui a i
  | .sfltui a i => Laws.SelectsRow.sfltui a i
  | .sfleui a i => Laws.SelectsRow.sfleui a i
  | .sfgtsi a i => Laws.SelectsRow.sfgtsi a i
  | .sfgesi a i => Laws.SelectsRow.sfgesi a i
  | .sfltsi a i => Laws.SelectsRow.sfltsi a i
  | .sflesi a i => Laws.SelectsRow.sflesi a i
  | .mac a b => Laws.SelectsRow.mac a b
  | .msb a b => Laws.SelectsRow.msb a b

/-- A word selects at most one row of the table (30_encoding.md R73). -/
theorem row_unique {r q : Row} (hr : r ∈ table) (hq : q ∈ table) {w : Word} (hrw : r.selects w = true) (hqw : q.selects w = true) :
    r = q := by
  have found : some r = some q := (find_selects table_apart hr hrw).symm.trans (find_selects table_apart hq hqw)
  exact Option.some.inj found

/-- The encoder writes 0 to the reserved bits of whichever row its word selects. -/
theorem encode_reserved_zero {i : Instr} (hi : i.wellFormed = true) {r : Row} (hr : r ∈ table) (hs : r.selects (encode i) = true) :
    encode i &&& r.reserved = 0 := by
  obtain ⟨q, hq, hqs, hzero, -⟩ := encode_selectsRow i hi
  rwa [row_unique hr hq hs hqs]

@[simp] theorem undecoded_reservedBitsSet (s : State) : undecoded .reservedBitsSet s = .refused .reservedBitsSet := rfl

/-- A fetched word with a reserved bit of its row set is refused, under either `UNDECODED_POLICY` (R77). -/
theorem step_of_reserved {s : State} {r : Row} (hr : r ∈ table) (hs : r.selects (s.load4 s.pc) = true)
    (hset : s.load4 s.pc &&& r.reserved ≠ 0) (hn : s.noInterrupt) (hf : s.fetchable) : step s = .refused .reservedBitsSet := by
  rw [step_undecoded (decodeWord_reserved hr hs hset) hn hf, undecoded_reservedBitsSet]

/-- Settles O4: an encoded word selects one row only, the one whose reserved bits the encoder clears; a fetched word that selects a row
and has a reserved bit set does not decode, and the step ends there. -/
theorem reservedBitsRefused : Obligations.ReservedBitsRefused :=
  ⟨fun _ hi _ hr hs => encode_reserved_zero hi hr hs, fun _ _ hr hs hset hn hf => step_of_reserved hr hs hset hn hf⟩

end Sys2Proof.Machine
end

section
/-! PROOFS, 43_orbis_jump_register.md. R124: the instruction in the delay slot of l.jalr reads the new link register and can replace it.
R125: a jump or branch in a delay slot is refused before anything else. -/

namespace Sys2Proof.Machine

/-! ## A jump or branch in a delay slot (43_orbis_jump_register.md R125) -/

theorem outsideSlot_refuses {s : State} (k : Result) (hd : s.delay ≠ none) : outsideSlot s k = .refused .jumpInDelaySlot := by
  simp [outsideSlot, State.inSlot, Option.isSome_iff_ne_none, hd]

/-- The slot test stands before everything else that a jump or branch does. -/
theorem exec_jump_outsideSlot {ins : Instr} {b : Reg} {n : BitVec 26} (s : State)
    (h : ins ∈ ([.jr b, .jalr b, .j n, .jal n, .bf n, .bnf n] : List Instr)) : ∃ k, exec ins s = outsideSlot s k := by
  simp only [List.mem_cons, List.not_mem_nil, or_false] at h
  obtain rfl | rfl | rfl | rfl | rfl | rfl := h
  · exact ⟨jumpRegister (s.reg b) s s, rfl⟩
  · exact ⟨if b = Config.linkReg then raise .illegal s else jumpRegister (s.reg b) s.link s, rfl⟩
  · exact ⟨.next (s.jump (s.branchTarget n)), rfl⟩
  · exact ⟨.next (s.link.jump (s.branchTarget n)), rfl⟩
  · exact ⟨.next (s.jump (if s.srBit SR.F then s.branchTarget n else s.pc + 8)), rfl⟩
  · exact ⟨.next (s.jump (if !s.srBit SR.F then s.branchTarget n else s.pc + 8)), rfl⟩

/-- Settles O25: each of the six tests for the slot first, and the test refuses. -/
theorem jumpInDelaySlotRefused : Obligations.JumpInDelaySlotRefused := by
  intro s b n hd ins hins
  obtain ⟨k, hk⟩ := exec_jump_outsideSlot s hins
  rw [hk, outsideSlot_refuses k hd]

/-! ## The link register in the delay slot (43_orbis_jump_register.md R124) -/

/-- The aligned case of a register jump; `jumpRegister_misaligned` is the other. -/
theorem jumpRegister_aligned {t : Word} (after s : State) (ht : t.toNat % 4 = 0) : jumpRegister t after s = .next (after.jump t) := by
  simp [jumpRegister, alignedTo, ht]

/-- l.jalr that completes: the target is read before the link is written. -/
theorem exec_jalr_aligned {s : State} {b : Reg} (h9 : b ≠ 9) (hd : s.delay = none) (hb : (s.reg b).toNat % 4 = 0) :
    exec (.jalr b) s = .next (s.link.jump (s.reg b)) := by
  change outsideSlot s (if b = 9 then _ else _) = _
  rw [outsideSlot_completes s _ hd, if_neg h9, jumpRegister_aligned s.link s hb]

theorem inSlot_of_jumpsTo {target : Word} {s t : State} (h : JumpsTo target s t) : t.inSlot = true := by
  rw [State.inSlot, h.2, Option.isSome_some]

/-- In a delay slot the instruction that goes on goes to the pending target. -/
theorem goesOn_pc_of_jumpsTo {target : Word} {s t u : State} (h : JumpsTo target s t) (hu : GoesOn t u) : u.pc = target := by
  rw [hu.1, h.2, Option.getD_some]

/-- l.ori in the delay slot of a jump writes rD and goes on to the jump's target. -/
theorem exec_ori_in_slot {target : Word} {s t : State} {d a : Reg} {k : Half} (h : JumpsTo target s t)
    (hw : Writable d (t.reg a ||| k.setWidth 32)) :
    ∃ u, exec (.ori d a k) t = .next u ∧ u.reg d = t.reg a ||| k.setWidth 32 ∧ u.pc = target := by
  obtain ⟨u, runs, result, -, goesOn⟩ := finishReg_result t hw
  exact ⟨u, runs, result, goesOn_pc_of_jumpsTo h goesOn⟩

/-- Settles O23: l.jalr leaves the link in r9 and its target pending, and the l.ori in the slot reads r9, or writes it, as any register. -/
theorem linkRegisterInDelaySlot : Obligations.LinkRegisterInDelaySlot := by
  intro s a b d k hd hb h9
  obtain ⟨jumps, link, -⟩ := link_jump_result s (s.reg b)
  refine ⟨s.link.jump (s.reg b), exec_jalr_aligned h9 hd hb, inSlot_of_jumpsTo jumps, link, fun hd0 => ?_, ?_⟩
  · rw [← link]
    exact exec_ori_in_slot jumps fun h0 => absurd h0 hd0
  · exact exec_ori_in_slot jumps fun h0 => absurd h0 (by decide)

end Sys2Proof.Machine
end

section
/-! PROOFS, 49_base_isa_supplement_b.md. R290: no row of the opcode table has a custom major opcode, so a word with one is refused. -/

namespace Sys2Proof.Machine

/-! ## The major opcode of a word that selects a row -/

theorem majorOpcode_and (x y : Word) : majorOpcode (x &&& y) = majorOpcode x &&& majorOpcode y := BitVec.extractLsb'_and

/-- Whatever else a row leaves to operands and reserved bits, it fixes bits 31:26. -/
theorem table_fixes_majorOpcode : ∀ r ∈ table, majorOpcode r.mask = BitVec.allOnes 6 := by decide

/-- A word that selects a row of the table has the row's major opcode. -/
theorem majorOpcode_of_selects {r : Row} (hr : r ∈ table) {w : Word} (hs : r.selects w = true) : majorOpcode w = majorOpcode r.value := by
  have selected : w &&& r.mask = r.value := by simpa [Row.selects] using hs
  rw [← selected, majorOpcode_and, table_fixes_majorOpcode r hr, BitVec.and_allOnes]

/-! ## Custom words -/

/-- The two opcode bits that `isCustom` does not test leave the eight major opcodes of l.cust1 to l.cust8. -/
theorem isCustom_iff (w : Word) :
    isCustom w = true ↔ majorOpcode w ∈ ([0x1c, 0x1d, 0x1e, 0x1f, 0x3c, 0x3d, 0x3e, 0x3f] : List (BitVec 6)) := by
  rw [isCustom]
  generalize majorOpcode w = m
  revert m
  decide

theorem table_not_custom : ∀ r ∈ table, isCustom r.value = false := by decide

/-- A custom word selects no row: a row it selected would have its major opcode. -/
theorem selects_of_custom {w : Word} (hw : isCustom w = true) {r : Row} (hr : r ∈ table) : r.selects w = false := by
  by_contra hs
  have sameOpcode : majorOpcode w = majorOpcode r.value := majorOpcode_of_selects hr (by simpa using hs)
  have custom : isCustom r.value = true := by rwa [isCustom, ← sameOpcode]
  rw [table_not_custom r hr] at custom
  cases custom

/-- A word that selects no row does not decode, and a custom one is told from the others. -/
theorem decodeWord_of_unselected {w : Word} (h : ∀ r ∈ table, r.selects w = false) :
    decodeWord w = if isCustom w then .error .customInstruction else .error .noSuchInstruction := by
  have noRow : table.find? (·.selects w) = none := List.find?_eq_none.mpr fun r hr => by simp [h r hr]
  simp only [decodeWord, noRow]

theorem decodeWord_of_custom {w : Word} (hw : isCustom w = true) : decodeWord w = .error .customInstruction := by
  rw [decodeWord_of_unselected fun _ hr => selects_of_custom hw hr, if_pos hw]

theorem undecoded_customInstruction {s : State} (hp : s.build.undecoded = .refuse) :
    undecoded .customInstruction s = .refused .customInstruction := by
  simp only [undecoded, hp]

/-- A fetched custom word is refused where `UNDECODED_POLICY` is `refuse`; sampling the interrupt lines leaves the policy. -/
theorem step_of_custom {s : State} (hw : isCustom (s.load4 s.pc) = true) (hn : s.noInterrupt) (hf : s.fetchable)
    (hp : s.build.undecoded = .refuse) : step s = .refused .customInstruction := by
  have policy : s.sample.build.undecoded = .refuse := hp
  rw [step_undecoded (decodeWord_of_custom hw) hn hf, undecoded_customInstruction policy]

/-- Settles O5: the eight major opcodes are the ones that `isCustom` tests for, no row has one of them, and a word without a row ends the
step as the policy says. -/
theorem customWordsRefused : Obligations.CustomWordsRefused := by
  intro s hs
  have custom : isCustom (s.load4 s.pc) = true := (isCustom_iff _).mpr hs
  exact ⟨fun _ hr => selects_of_custom custom hr, step_of_custom custom⟩

end Sys2Proof.Machine
end

section
/-! PROOFS, 60_exceptions.md. R321: the latch, and that among all instructions l.mtspr to PICSR alone changes PICSR after it. R322: what that
write leaves in each bit, and the one that is refused. R331: the refusals in user mode. -/

namespace Sys2Proof.Machine

/-! ## User mode (60_exceptions.md R331) -/

theorem execMfspr_user {s : State} (hs : s.supervisor = false) (d a : Reg) (k : Half) :
    execMfspr d a k s = .refused .sprAccessInUserMode := by simp [execMfspr, hs]

theorem execMtspr_user {s : State} (hs : s.supervisor = false) (a b : Reg) (k : Half) :
    execMtspr a b k s = .refused .sprAccessInUserMode := by simp [execMtspr, hs]

theorem returnFromException_user {s : State} (hs : s.supervisor = false) :
    returnFromException s = .refused .privilegedInUserMode := by simp [returnFromException, hs]

/-- Settles O17: each of the three tests the mode before anything else. -/
theorem userModePrivilege : Obligations.UserModePrivilege := fun _ d a b k hs =>
  ⟨execMfspr_user hs d a k, execMtspr_user hs a b k, returnFromException_user hs⟩

/-! ## A write of PICSR (60_exceptions.md R322) -/

/-- What a write of `v` that is not refused leaves in PICSR. -/
def State.picsrWritten (s : State) (v : Word) : Word := v &&& s.picsr ||| ~~~v &&& (s.irq &&& s.picmr)

theorem clearPicsr_completes {s : State} {v : Word} (h : v &&& ~~~s.picsr = 0) :
    s.clearPicsr v = .ok { s with picsr := s.picsrWritten v } := if_pos h

theorem clearPicsr_refuses {s : State} {v : Word} (h : v &&& ~~~s.picsr ≠ 0) : s.clearPicsr v = .error .setOfClearPicsrBit := if_neg h

theorem and_not_eq_zero_iff (v p : Word) : v &&& ~~~p = 0 ↔ ∀ j, v.getLsbD j = true → p.getLsbD j = true := by
  constructor
  · intro h j hv
    have hbit : (v &&& ~~~p).getLsbD j = false := by rw [h]; exact BitVec.getLsbD_zero
    simpa [hv, BitVec.lt_of_getLsbD hv] using hbit
  · intro h
    apply BitVec.eq_of_getLsbD_eq
    intro j _
    cases hv : v.getLsbD j with
    | false => simp [hv]
    | true => simp [h j hv]

/-- A write sets a clear bit exactly when its value has a bit outside PICSR. -/
theorem exists_setOfClear_iff (v p : Word) :
    (∃ j ∈ List.range 32, v.getLsbD j = true ∧ p.getLsbD j = false) ↔ v &&& ~~~p ≠ 0 := by
  rw [Ne, and_not_eq_zero_iff]
  push Not
  constructor
  · rintro ⟨j, -, hv, hp⟩
    exact ⟨j, hv, by simp [hp]⟩
  · rintro ⟨j, hv, hp⟩
    exact ⟨j, List.mem_range.mpr (BitVec.lt_of_getLsbD hv), hv, by simpa using hp⟩

/-- A write that sets no clear bit keeps the bits written 1 and gives the others the level of their unmasked lines. -/
theorem picsrWritten_bit {s : State} {v : Word} (h : v &&& ~~~s.picsr = 0) (j : Nat) :
    (s.picsrWritten v).getLsbD j = if v.getLsbD j then true else s.irq.getLsbD j && s.picmr.getLsbD j := by
  cases hv : v.getLsbD j with
  | true => simp [State.picsrWritten, hv, (and_not_eq_zero_iff v s.picsr).mp h j hv]
  | false =>
    have line : s.irq.getLsbD j = true → j < 32 := BitVec.lt_of_getLsbD
    simpa [State.picsrWritten, hv] using fun hi _ => line hi

/-- Where there is a PIC, number 0x4802 is PICSR. -/
theorem sprAt_picsr {s : State} (h : s.build.hasPic = true) : s.sprAt 0x4802 = .ok .picsr := if_pos h

theorem keeps_setPicsr {w : Writes} (s : State) (v : Word) (h : w.picsr = true) : Keeps w s { s with picsr := v } where
  regs _ _ := rfl
  sr _ _ := rfl
  mac _ := ⟨rfl, rfl⟩
  saved _ := ⟨rfl, rfl, rfl⟩
  fpcsr _ := rfl
  picmr _ := rfl
  picsr hw := by rw [h] at hw; cases hw
  memory _ _ := rfl
  stored _ := rfl
  draws _ := rfl
  platform := ⟨rfl, rfl, rfl, rfl⟩

/-- Settles O12: the write is refused where its value has a bit outside PICSR, and else it is `picsrWritten`, bit by bit. -/
theorem picsrWrite : Obligations.PicsrWrite := by
  intro s a b k hs hp hk
  have named : s.sprAt (s.sprIndex a k) = .ok .picsr := hk ▸ sprAt_picsr hp
  simp only [exists_setOfClear_iff]
  split
  · next hset => exact execMtspr_refuses hs named (clearPicsr_refuses hset)
  · next hset =>
    have inside : s.reg b &&& ~~~s.picsr = 0 := not_not.mp hset
    refine ⟨_, execMtspr_completes hs named (clearPicsr_completes inside), fun j => ?_,
      (keeps_setPicsr s _ rfl).trans (keeps_advance _ _), goesOn_of_same rfl rfl⟩
    rw [advance_picsr]
    exact picsrWritten_bit inside j

/-! ## What a step does to PICSR (60_exceptions.md R321) -/

/-- The l.mtspr with these operands names PICSR, sets no clear bit of it, and leaves in `t` what it writes at `s`. -/
structure WritesPicsr (a b : Reg) (k : Half) (s t : State) : Prop where
  number : s.sprIndex a k = 0x4802
  inside : s.reg b &&& ~~~s.picsr = 0
  written : t.picsr = s.picsrWritten (s.reg b)

theorem WritesPicsr.keeps_bit {a b : Reg} {k : Half} {s t : State} (h : WritesPicsr a b k s t) {j : Nat}
    (hv : (s.reg b).getLsbD j = true) : t.picsr.getLsbD j = true := by
  rw [h.written, picsrWritten_bit h.inside, if_pos hv]

/-- The PICSR of `t` is that of `s`, unless the instruction that led there is an l.mtspr that writes PICSR. -/
def PicsrKeptOrWritten (i : Instr) (s t : State) : Prop :=
  t.picsr = s.picsr ∨ ∃ a b k, i = .mtspr a b k ∧ WritesPicsr a b k s t

/-- Of the updates an instruction is made of, the write of a special-purpose register alone touches PICSR. -/
theorem execRule_picsr (i : Instr) (s : State) : ExecRule (fun u => u.picsr = s.picsr) (PicsrKeptOrWritten i s) i s where
  start := rfl
  setReg _ _ _ hu _ := hu
  draw _ hu := hu
  setCyOv _ _ _ hu := hu
  setFlag _ _ hu := hu
  setAcc _ _ hu := hu
  setFpFlags _ _ hu := hu
  setByte _ _ _ hu := hu
  advance u hu := .inl (by rwa [advance_picsr])
  enter u e hu _ := .inl (by rwa [enter_picsr])
  jump _ _ hu _ _ := .inl hu
  rfe _ _ _ _ _ := .inl rfl
  mtspr a b k hi _ r u hr hw := by
    rw [PicsrKeptOrWritten, advance_picsr]
    obtain kept | ⟨rfl, inside, written⟩ := writeSpr_picsr hw
    · exact .inl kept
    · exact .inr ⟨a, b, k, hi, sprOf_picsr (sprAt_ok hr).1, inside, by rw [advance_picsr, written]; rfl⟩

/-- A step ends with the PICSR that the latch left, unless it runs an l.mtspr that writes PICSR. -/
theorem step_picsr (s : State) : Ensures (fun t => t.picsr = s.sample.picsr ∨
    ∃ a b k, decodeWord (s.load4 s.pc) = .ok (.mtspr a b k) ∧ WritesPicsr a b k s.sample t) (step s) := by
  refine ensures_step (.inl (enter_picsr _ _)) (.inl (enter_picsr _ _)) fun i hi t ht => ?_
  obtain kept | ⟨a, b, k, rfl, written⟩ := ensures_exec (execRule_picsr i s.sample) t ht
  · exact .inl kept
  · exact .inr ⟨a, b, k, hi, written⟩

theorem sample_picsr_bit {s : State} (h : s.build.hasPic = true) (i : Nat) :
    s.sample.picsr.getLsbD i = (s.picsr.getLsbD i || s.nextInput.irq.getLsbD i && s.picmr.getLsbD i) := by
  rw [sample_picsr s h, BitVec.getLsbD_or, BitVec.getLsbD_and]

/-- Settles O11: the latch only sets bits, and the one instruction that writes PICSR keeps those it writes 1. -/
theorem picLatch : Obligations.PicLatch := by
  refine ⟨fun s i hp => sample_picsr_bit hp i, fun s => ⟨picmr_bit s 0 (by decide), picmr_bit s 1 (by decide)⟩,
    fun s t h hno => ?_, fun s t j h hset hclear => ?_⟩
  · obtain latched | ⟨a, b, k, runs, written⟩ := step_picsr s t h
    · exact latched
    · exact absurd written.number (hno a b k runs)
  · obtain latched | ⟨a, b, k, runs, written⟩ := step_picsr s t h
    · rw [latched, sample_picsr_grows s j hset] at hclear
      cases hclear
    · refine ⟨a, b, k, runs, written.number, ?_⟩
      by_contra hv
      rw [written.keeps_bit (by simpa using hv)] at hclear
      cases hclear

end Sys2Proof.Machine
end

section
/-! PROOFS, 30_encoding.md. Encoding and decoding are inverse to each other: every well-formed instruction is read back from its word, and
every word that decodes is put together again from its row's fixed bits and the operands read from it. -/

namespace Sys2Proof

/-! ## From an instruction to its word and back -/

theorem decodeWord_encode {i : Instr} (hi : i.wellFormed = true) : decodeWord (encode i) = .ok i := by
  obtain ⟨r, hr, hs, hzero, hbuild⟩ := Machine.encode_selectsRow i hi
  rw [decodeWord_of_row hr hs hzero, hbuild]

theorem decodeBytes_encodeBytes {i : Instr} (hi : i.wellFormed = true) (rest : List Byte) :
    decodeBytes (encodeBytes i ++ rest) = .ok (i, rest) := by
  rw [encodeBytes, decodeBytes_bytesOfWord, decodeWord_encode hi]; rfl

/-- Settles O2: the word of a well-formed instruction selects one row, and that row reads every operand back. -/
theorem decodeEncodeRoundTrip : Obligations.DecodeEncodeRoundTrip :=
  fun _ hi => ⟨decodeWord_encode hi, decodeBytes_encodeBytes hi⟩

/-- Settles O1: each of the words is the encoding of its instruction. -/
theorem decodeOfSpecWords : Obligations.DecodeOfSpecWords := by
  intro p hp
  have encodes : p.2.wellFormed = true ∧ encode p.2 = p.1 := by
    revert p
    decide
  rw [← encodes.2, decodeWord_encode encodes.1]

/-! ## From a word to its instruction and back -/

/-- Every word that decodes by the row is the encoding of what the row builds from it. -/
def Row.Inverts (r : Row) : Prop :=
  ∀ w, r.selects w = true → w &&& r.reserved = 0 → (r.build w).wellFormed = true ∧ encode (r.build w) = w

/-- A row inverts where its instruction encodes the bits `f` of the word, and these are all that the row neither fixes nor reserves. -/
theorem inverts_of_operands {r : Row} {f : Word} (henc : ∀ w, encode (r.build w) = r.value ||| w &&& f)
    (hbits : r.mask ||| r.reserved ||| f = 0xFFFFFFFF) (hwf : ∀ w, w &&& r.reserved = 0 → (r.build w).wellFormed = true) :
    r.Inverts := by
  intro w hs hr
  have fixed : w &&& r.mask = r.value := by simpa [Row.selects] using hs
  exact ⟨hwf w hr, (henc w).trans (word_of_row fixed hr hbits)⟩

/-! The operand fields of each format, put back in their places. -/

theorem operands_none (v w : Word) : v = v ||| w &&& 0 := by
  rw [show w &&& 0 = 0#32 from BitVec.and_zero, BitVec.or_zero]

theorem operands_D (v w : Word) : v ||| putD (fieldD w) = v ||| w &&& 0x03E00000 := by rw [putD_fieldD]

theorem operands_B (v w : Word) : v ||| putB (fieldB w) = v ||| w &&& 0x0000F800 := by rw [putB_fieldB]

theorem operands_N (v w : Word) : v ||| putN (fieldN w) = v ||| w &&& 0x03FFFFFF := by rw [putN_fieldN]

theorem operands_Imm (v w : Word) : v ||| putImm (fieldImm w) = v ||| w &&& 0x0000FFFF := by rw [putImm_fieldImm]

theorem operands_DA (v w : Word) : v ||| putD (fieldD w) ||| putA (fieldA w) = v ||| w &&& 0x03FF0000 := by
  rw [operands_D, putA_fieldA, BitVec.or_assoc, ← BitVec.and_or_distrib_left]; rfl

theorem operands_AB (v w : Word) : v ||| putA (fieldA w) ||| putB (fieldB w) = v ||| w &&& 0x001FF800 := by
  rw [putA_fieldA, putB_fieldB, BitVec.or_assoc, ← BitVec.and_or_distrib_left]; rfl

theorem operands_AImm (v w : Word) : v ||| putA (fieldA w) ||| putImm (fieldImm w) = v ||| w &&& 0x001FFFFF := by
  rw [putA_fieldA, putImm_fieldImm, BitVec.or_assoc, ← BitVec.and_or_distrib_left]; rfl

theorem operands_DImm (v w : Word) : v ||| putD (fieldD w) ||| putImm (fieldImm w) = v ||| w &&& 0x03E0FFFF := by
  rw [operands_D, putImm_fieldImm, BitVec.or_assoc, ← BitVec.and_or_distrib_left]; rfl

theorem operands_DAB (v w : Word) :
    v ||| putD (fieldD w) ||| putA (fieldA w) ||| putB (fieldB w) = v ||| w &&& 0x03FFF800 := by
  rw [operands_DA, putB_fieldB, BitVec.or_assoc, ← BitVec.and_or_distrib_left]; rfl

theorem operands_DAImm (v w : Word) :
    v ||| putD (fieldD w) ||| putA (fieldA w) ||| putImm (fieldImm w) = v ||| w &&& 0x03FFFFFF := by
  rw [operands_DA, putImm_fieldImm, BitVec.or_assoc, ← BitVec.and_or_distrib_left]; rfl

theorem operands_DAL (v w : Word) : v ||| putD (fieldD w) ||| putA (fieldA w) ||| putL (fieldL w) = v ||| w &&& 0x03FF003F := by
  rw [operands_DA, putL_fieldL, BitVec.or_assoc, ← BitVec.and_or_distrib_left]; rfl

theorem operands_ABSplit (v w : Word) :
    v ||| putA (fieldA w) ||| putB (fieldB w) ||| putSplit (fieldSplit w) = v ||| w &&& 0x03FFFFFF := by
  rw [operands_AB, putSplit_fieldSplit, BitVec.or_assoc, ← BitVec.and_or_distrib_left]; rfl

/-- Where bit 5 of a word is 0, so is the reserved bit of its shift amount. -/
theorem shiftAmountOk_fieldL {w : Word} (h : w &&& 0x0000FF20 = 0) : shiftAmountOk (fieldL w) = true := by
  have bit : (w &&& 0x0000FF20).getLsbD 5 = w.getLsbD 5 := by
    rw [BitVec.getLsbD_and, show (0x0000FF20 : Word).getLsbD 5 = true by decide, Bool.and_true]
  have clear : w.getLsbD 5 = false := by rw [← bit, h]; rfl
  simpa [shiftAmountOk, fieldL] using clear

theorem tableRRR_inverts : ∀ r ∈ tableRRR, r.Inverts := by
  simp only [tableRRR, List.forall_mem_cons, List.not_mem_nil, IsEmpty.forall_iff, implies_true, and_true]
  refine ⟨?add, ?addc, ?mul, ?div, ?divu, ?mulu, ?ff1, ?fl1, ?sub, ?and, ?or, ?xor, ?cmov, ?sll, ?srl, ?sra, ?ror, ?exths, ?extbs,
    ?exthz, ?extbz, ?extws, ?extwz⟩
  case ff1 | fl1 | exths | extbs | exthz | extbz | extws | extwz =>
    exact inverts_of_operands (operands_DA _) (by decide) fun _ _ => rfl
  all_goals exact inverts_of_operands (operands_DAB _) (by decide) fun _ _ => rfl

theorem tableRRI_inverts : ∀ r ∈ tableRRI, r.Inverts := by
  simp only [tableRRI, List.forall_mem_cons, List.not_mem_nil, IsEmpty.forall_iff, implies_true, and_true]
  refine ⟨?addi, ?addic, ?xori, ?muli, ?lwz, ?lws, ?lbz, ?lbs, ?lhz, ?lhs, ?mfspr, ?andi, ?ori⟩
  all_goals exact inverts_of_operands (operands_DAImm _) (by decide) fun _ _ => rfl

theorem tableJump_inverts : ∀ r ∈ tableJump, r.Inverts := by
  simp only [tableJump, List.forall_mem_cons, List.not_mem_nil, IsEmpty.forall_iff, implies_true, and_true]
  refine ⟨?maci, ?jr, ?jalr, ?maddS, ?maddD, ?j, ?jal, ?bnf, ?bf⟩
  case maci => exact inverts_of_operands (operands_AImm _) (by decide) fun _ _ => rfl
  case jr | jalr => exact inverts_of_operands (operands_B _) (by decide) fun _ _ => rfl
  case maddS | maddD => exact inverts_of_operands (operands_DAB _) (by decide) fun _ _ => rfl
  case j | jal | bnf | bf => exact inverts_of_operands (operands_N _) (by decide) fun _ _ => rfl

theorem tableSystem_inverts : ∀ r ∈ tableSystem, r.Inverts := by
  simp only [tableSystem, List.forall_mem_cons, List.not_mem_nil, IsEmpty.forall_iff, implies_true, and_true]
  refine ⟨?nop, ?movhi, ?macrc, ?sys, ?trap, ?msync, ?psync, ?csync, ?rfe⟩
  case movhi => exact inverts_of_operands (operands_DImm _) (by decide) fun _ _ => rfl
  case macrc => exact inverts_of_operands (operands_D _) (by decide) fun _ _ => rfl
  case nop | sys | trap => exact inverts_of_operands (operands_Imm _) (by decide) fun _ _ => rfl
  case msync | psync | csync | rfe => exact inverts_of_operands (operands_none _) (by decide) fun _ _ => rfl

theorem tableStore_inverts : ∀ r ∈ tableStore, r.Inverts := by
  simp only [tableStore, List.forall_mem_cons, List.not_mem_nil, IsEmpty.forall_iff, implies_true, and_true]
  refine ⟨?mtspr, ?sw, ?sb, ?sh, ?mac, ?msb⟩
  case mac | msb => exact inverts_of_operands (operands_AB _) (by decide) fun _ _ => rfl
  all_goals exact inverts_of_operands (operands_ABSplit _) (by decide) fun _ _ => rfl

theorem tableShift_inverts : ∀ r ∈ tableShift, r.Inverts := by
  simp only [tableShift, List.forall_mem_cons, List.not_mem_nil, IsEmpty.forall_iff, implies_true, and_true]
  refine ⟨?slli, ?srli, ?srai, ?rori⟩
  all_goals exact inverts_of_operands (operands_DAL _) (by decide) fun _ h => shiftAmountOk_fieldL h

theorem tableCompare_inverts : ∀ r ∈ tableCompare, r.Inverts := by
  simp only [tableCompare, List.forall_mem_cons, List.not_mem_nil, IsEmpty.forall_iff, implies_true, and_true]
  refine ⟨?sfeq, ?sfne, ?sfgtu, ?sfgeu, ?sfltu, ?sfleu, ?sfgts, ?sfges, ?sflts, ?sfles⟩
  all_goals exact inverts_of_operands (operands_AB _) (by decide) fun _ _ => rfl

theorem tableCompareImm_inverts : ∀ r ∈ tableCompareImm, r.Inverts := by
  simp only [tableCompareImm, List.forall_mem_cons, List.not_mem_nil, IsEmpty.forall_iff, implies_true, and_true]
  refine ⟨?sfeqi, ?sfnei, ?sfgtui, ?sfgeui, ?sfltui, ?sfleui, ?sfgtsi, ?sfgesi, ?sfltsi, ?sflesi⟩
  all_goals exact inverts_of_operands (operands_AImm _) (by decide) fun _ _ => rfl

theorem table_inverts : ∀ r ∈ table, r.Inverts := by
  simp only [table, List.forall_mem_append]
  exact ⟨⟨⟨⟨⟨⟨⟨tableRRR_inverts, tableRRI_inverts⟩, tableJump_inverts⟩, tableSystem_inverts⟩, tableStore_inverts⟩,
    tableShift_inverts⟩, tableCompare_inverts⟩, tableCompareImm_inverts⟩

/-- Settles O3: a word that decodes selects a row, and every row inverts. -/
theorem encodeDecodeRoundTrip : Obligations.EncodeDecodeRoundTrip := by
  intro w i h
  obtain ⟨r, hr, hs, hzero, rfl⟩ := row_of_decodeWord h
  exact table_inverts r hr w hs hzero

end Sys2Proof
end

section
/-! PROOFS, 10_state.md and 60_exceptions.md, of the whole machine: what no step does to r0, the delay slot, how the mode changes, what user
mode cannot change, and the invariant. Each follows from how its property fares under the updates that instructions are made of. -/

namespace Sys2Proof.Machine

/-! ## r0 (10_state.md R22) -/

/-- Of the updates an instruction is made of, the write of a register alone touches r0, and it writes 0 there. -/
theorem execRule_r0 (i : Instr) (s : State) :
    ExecRule (fun u => u.reg 0 = s.reg 0 ∨ u.reg 0 = 0) (fun u => u.reg 0 = s.reg 0 ∨ u.reg 0 = 0) i s where
  start := .inl rfl
  setReg u d v hu hw := by
    rw [reg_setReg]
    split
    · next h => exact .inr (hw h.symm)
    · exact hu
  draw _ hu := hu
  setCyOv _ _ _ hu := hu
  setFlag _ _ hu := hu
  setAcc _ _ hu := hu
  setFpFlags _ _ hu := hu
  setByte _ _ _ hu := hu
  advance u hu := by rwa [advance_reg]
  enter u e hu _ := by rwa [enter_reg]
  jump _ _ hu _ _ := hu
  rfe _ _ _ _ _ := .inl rfl
  mtspr _ _ _ _ _ r u _ hw := by
    obtain ⟨regs, -⟩ := writeSpr_same hw
    rw [advance_reg, State.reg, regs]
    exact .inl rfl

/-- Settles O57: every write of a register goes through the test for r0, and no exception or interrupt writes one. -/
theorem r0HoldsNoNewNonZero : Obligations.R0HoldsNoNewNonZero := fun s =>
  ensures_step (P := fun t => t.reg 0 = s.reg 0 ∨ t.reg 0 = 0) (.inl (enter_reg _ _ _)) (.inl (enter_reg _ _ _)) fun i _ =>
    ensures_exec (execRule_r0 i s.sample)

/-! ## What the writes of an instruction leave alone until it ends -/

/-- What stays from `s` to `u` while an instruction makes its writes: the pc and the pending target, the saved registers, the interrupt
controller, and SR but for F, CY and OV. -/
structure Untouched (s u : State) : Prop where
  pc : u.pc = s.pc
  delay : u.delay = s.delay
  epcr0 : u.epcr0 = s.epcr0
  eear0 : u.eear0 = s.eear0
  esr0 : u.esr0 = s.esr0
  ium : u.ium = s.ium
  picsr : u.picsr = s.picsr
  sr : ∀ i, i ∉ [SR.F, SR.CY, SR.OV] → u.srBit i = s.srBit i

theorem Untouched.refl (s : State) : Untouched s s := by constructor <;> simp

theorem Untouched.trans {s t u : State} (h : Untouched s t) (k : Untouched t u) : Untouched s u where
  pc := k.pc.trans h.pc
  delay := k.delay.trans h.delay
  epcr0 := k.epcr0.trans h.epcr0
  eear0 := k.eear0.trans h.eear0
  esr0 := k.esr0.trans h.esr0
  ium := k.ium.trans h.ium
  picsr := k.picsr.trans h.picsr
  sr i hi := (k.sr i hi).trans (h.sr i hi)

theorem Untouched.inSlot {s u : State} (h : Untouched s u) : u.inSlot = s.inSlot := by rw [State.inSlot, h.delay]; rfl

theorem untouched_setCyOv (s : State) (cy ov : Bool) : Untouched s (s.setCyOv cy ov) := by
  constructor <;> try simp
  intro i hF hCY hOV
  exact setCyOv_srBit_other s cy ov (by simp [hCY, hOV])

theorem untouched_setFlag (s : State) (b : Bool) : Untouched s (s.setSrBit SR.F b) := by
  constructor <;> try simp
  intro i hF _ _
  rw [setSrBit_srBit _ _ _ _ (by decide) (by decide), if_neg hF]

/-- A property of the next state follows from how an instruction ends, each end starting where its writes have left it. -/
theorem execRule_untouched {P : State → Prop} {i : Instr} {s : State} (advance : ∀ u, Untouched s u → P u.advance)
    (enter : ∀ u e, Untouched s u → (e.savesNext = true → s.delay = none) → P (u.enter e))
    (jump : ∀ u target, Untouched s u → s.delay = none → P (u.jump target))
    (rfe : i = .rfe → s.supervisor = true → s.delay = none → P { s with sr := setBit s.esr0 SR.FO true, pc := s.epcr0, delay := none })
    (mtspr : ∀ a b k, i = .mtspr a b k → s.supervisor = true → ∀ r u, s.sprAt (s.sprIndex a k) = .ok r →
      s.writeSpr (s.reg b) r = .ok u → P u.advance) : ExecRule (Untouched s) P i s where
  start := Untouched.refl s
  setReg u d v hu _ := hu.trans (by constructor <;> simp)
  draw u hu := hu.trans (by constructor <;> simp)
  setCyOv u cy ov hu := hu.trans (untouched_setCyOv u cy ov)
  setFlag u b hu := hu.trans (untouched_setFlag u b)
  setAcc u v hu := hu.trans (by constructor <;> simp)
  setFpFlags u f hu := hu.trans (by constructor <;> simp)
  setByte u a v hu := hu.trans (by constructor <;> simp)
  advance := advance
  enter u e hu he := enter u e hu fun h => hu.delay ▸ he h
  jump u target hu hd _ := jump u target hu hd
  rfe hi hs _ _ hd := rfe hi hs hd
  mtspr := mtspr

/-! ## The delay slot (10_state.md R24, R25) -/

/-- From a state with `target` pending, `t` is at the target, or an exception has recorded the delay slot and the address of the jump. -/
def LeavesSlot (target : Word) (s t : State) : Prop :=
  t.delay = none ∧ (t.pc = target ∨ t.srBit SR.DSX = true ∧ t.epcr0 = s.pc - 4)

theorem leavesSlot_advance {target : Word} {s u : State} (hd : u.delay = some target) : LeavesSlot target s u.advance :=
  ⟨advance_delay u, .inl (by rw [advance_pc, hd, Option.getD_some])⟩

theorem leavesSlot_enter {target : Word} {s u : State} {e : Exc} (hp : u.pc = s.pc) (hd : u.delay = some target)
    (he : e.savesNext = false) : LeavesSlot target s (u.enter e) := by
  have slot : u.inSlot = true := by rw [State.inSlot, hd, Option.isSome_some]
  have entered := enter_entered u e
  refine ⟨entered.delay, .inr ⟨entered.dsx.trans slot, ?_⟩⟩
  rw [enter_epcr0, savedPc_resume e u he, State.resumePc, if_pos slot, hp]

theorem exec_leavesSlot {target : Word} {i : Instr} {s : State} (hd : s.delay = some target) :
    Ensures (LeavesSlot target s) (exec i s) := by
  have slot : s.delay ≠ none := by simp [hd]
  refine ensures_exec (execRule_untouched (fun u hu => ?advance) (fun u e hu he => ?enter) (fun _ _ _ h => absurd h slot)
    (fun _ _ h => absurd h slot) (fun _ _ _ _ _ r u _ hw => ?mtspr))
  case advance => exact leavesSlot_advance (hu.delay.trans hd)
  case enter => exact leavesSlot_enter hu.pc (hu.delay.trans hd) (by simpa using fun h => slot (he h))
  case mtspr =>
    obtain ⟨-, -, delay, -⟩ := writeSpr_same hw
    exact leavesSlot_advance (delay.trans hd)

/-- Settles O26: every end of an instruction in a slot drops the pending target, the jumps and l.rfe being refused there. -/
theorem delaySlotThenTarget : Obligations.DelaySlotThenTarget := by
  intro s t target hd
  have pending : s.sample.delay = some target := hd
  exact ensures_step (P := LeavesSlot target s) (leavesSlot_enter rfl pending rfl) (leavesSlot_enter rfl pending rfl)
    (fun _ _ => exec_leavesSlot pending) t

/-! ## The mode (60_exceptions.md R330) -/

/-- `t` is the state after trap entry for one of the seven exceptions, from a state that agrees with `s` on the pc, the pending target and SR
but for F, CY and OV. -/
def TrapEntered (s t : State) : Prop :=
  ∃ off u, off ∈ ([0x600, 0x700, 0x800, 0xB00, 0xC00, 0xD00, 0xE00] : List Word) ∧
    u.pc = s.pc ∧ u.delay = s.delay ∧ (∀ i, i ∉ [SR.F, SR.CY, SR.OV] → u.srBit i = s.srBit i) ∧
    Entered u off (if off = 0xC00 ∨ off = 0xD00 then s.pc + 4 else s.resumePc) t ∧ TrapKeeps u t

theorem offset_mem (e : Exc) : e.offset ∈ ([0x600, 0x700, 0x800, 0xB00, 0xC00, 0xD00, 0xE00] : List Word) := by
  cases e <;> simp [Exc.offset]

/-- System Call and Floating Point are the exceptions that save the address of the next instruction (60_exceptions.md R306). -/
theorem offset_savesNext (e : Exc) : (e.offset = 0xC00 ∨ e.offset = 0xD00) ↔ e.savesNext = true := by
  cases e <;> simp [Exc.offset, Exc.savesNext]

theorem savedPc_eq (e : Exc) (s : State) :
    savedPc e s.pc s.inSlot = if e.offset = 0xC00 ∨ e.offset = 0xD00 then s.pc + 4 else s.resumePc := by
  simp only [offset_savesNext, savedPc, State.resumePc]

theorem trapEntered_enter {s u : State} (h : Untouched s u) (e : Exc) : TrapEntered s (u.enter e) := by
  have epc : savedPc e u.pc u.inSlot = if e.offset = 0xC00 ∨ e.offset = 0xD00 then s.pc + 4 else s.resumePc := by
    rw [h.pc, h.inSlot, savedPc_eq]
  exact ⟨e.offset, u, offset_mem e, h.pc, h.delay, h.sr, epc ▸ enter_entered u e, keeps_enter _ _ (fun _ h => h) rfl rfl⟩

/-- The instruction leaves supervisor mode: an l.rfe to a saved user mode, or an l.mtspr that writes SR with SM clear. -/
def LeavesSupervisor (i : Instr) (s : State) : Prop :=
  (i = .rfe ∧ s.esr0.getLsbD SR.SM = false) ∨
    ∃ a b k, i = .mtspr a b k ∧ s.sprIndex a k = 0x0011 ∧ (s.reg b).getLsbD SR.SM = false

/-- The mode changes from `s` to `t` by trap entry alone on the way in, and by `out` alone on the way out. -/
def ModeChange (out : Prop) (s t : State) : Prop :=
  (s.srBit SR.SM = false → t.srBit SR.SM = true → TrapEntered s t) ∧ (s.srBit SR.SM = true → t.srBit SR.SM = false → out)

theorem modeChange_of_same {out : Prop} {s t : State} (h : t.srBit SR.SM = s.srBit SR.SM) : ModeChange out s t :=
  ⟨fun hs ht => absurd (ht.symm.trans (h.trans hs)) (by decide), fun hs ht => absurd (ht.symm.trans (h.trans hs)) (by decide)⟩

theorem modeChange_enter {out : Prop} {s u : State} (h : Untouched s u) (e : Exc) : ModeChange out s (u.enter e) :=
  ⟨fun _ _ => trapEntered_enter h e, fun _ ht => absurd (ht.symm.trans (enter_entered u e).supervisor) (by decide)⟩

theorem modeChange_of_supervisor {out : Prop} {s t : State} (hs : s.supervisor = true) (h : t.srBit SR.SM = false → out) :
    ModeChange out s t :=
  ⟨fun hf _ => absurd (hf.symm.trans hs) (by decide), fun _ ht => h ht⟩

theorem Untouched.mode {s u : State} (h : Untouched s u) : u.srBit SR.SM = s.srBit SR.SM := h.sr SR.SM (by decide)

/-- SR reads as the value written to it, with FO = 1. -/
theorem srBit_of_written {t : State} {v : Word} (h : t.sr = setBit v SR.FO true) (i : Nat) :
    t.srBit i = if i = SR.FO then true else v.getLsbD i := by
  rw [srBit_eq, h, getLsbD_setBit _ _ _ _ (by decide)]
  split <;> rfl

/-- A write of a special-purpose register that clears SR[SM] is a write of SR with that bit clear. -/
theorem writeSpr_clears_sm {s u : State} {a b : Reg} {k : Half} {r : Spr} (hr : s.sprAt (s.sprIndex a k) = .ok r)
    (hw : s.writeSpr (s.reg b) r = .ok u) (hs : s.supervisor = true) (hu : u.srBit SR.SM = false) :
    s.sprIndex a k = 0x0011 ∧ (s.reg b).getLsbD SR.SM = false := by
  obtain same | ⟨rfl, -, written⟩ := writeSpr_sr hw
  · rw [State.supervisor, srBit_eq, ← same, ← srBit_eq, hu] at hs; cases hs
  · rw [srBit_of_written written, if_neg (by decide)] at hu
    exact ⟨sprOf_sr (sprAt_ok hr).1, hu⟩

theorem exec_modeChange (i : Instr) (s : State) : Ensures (ModeChange (LeavesSupervisor i s) s) (exec i s) := by
  refine ensures_exec (execRule_untouched (fun u hu => ?advance) (fun u e hu _ => modeChange_enter hu e)
    (fun u target hu _ => ?jump) (fun hi hs _ => ?rfe) (fun a b k hi hs r u hr hw => ?mtspr))
  case advance => exact modeChange_of_same (by rw [advance_srBit, hu.mode])
  case jump => exact modeChange_of_same (by rw [jump_srBit, hu.mode])
  case rfe =>
    refine modeChange_of_supervisor hs fun ht => .inl ⟨hi, ?_⟩
    rwa [srBit_of_written rfl, if_neg (by decide)] at ht
  case mtspr =>
    refine modeChange_of_supervisor hs fun ht => .inr ⟨a, b, k, hi, writeSpr_clears_sm hr hw hs ?_⟩
    rwa [advance_srBit] at ht

/-- Settles O18: the ends of instructions that change SR[SM] are trap entry, l.rfe and l.mtspr, and the interrupt test takes trap entry. -/
theorem modeChanges : Obligations.ModeChanges := by
  intro s t h
  have change : ModeChange (∃ i, decodeWord (s.load4 s.pc) = .ok i ∧ LeavesSupervisor i s) s.sample t := by
    refine ensures_step (P := ModeChange _ s.sample) (modeChange_enter (Untouched.refl _) _) (modeChange_enter (Untouched.refl _) _)
      (fun i hi t ht => ?_) t h
    obtain ⟨into, out⟩ := exec_modeChange i s.sample t ht
    exact ⟨into, fun hs ht => ⟨i, hi, out hs ht⟩⟩
  obtain ⟨into, out⟩ := change
  refine ⟨into, fun hs ht => ?_⟩
  obtain ⟨i, hi, ⟨rfl, saved⟩ | ⟨a, b, k, rfl, written⟩⟩ := out hs ht
  · exact .inl ⟨hi, saved⟩
  · exact .inr ⟨a, b, k, hi, written⟩

/-! ## User mode (60_exceptions.md R331) -/

/-- The interrupt controller is as in `s`, and so are the saved registers and SR but for F, CY and OV, unless `t` is in supervisor mode. -/
def Confined (s t : State) : Prop :=
  t.ium = s.ium ∧ t.picsr = s.picsr ∧
    (t.srBit SR.SM = true ∨
      t.epcr0 = s.epcr0 ∧ t.eear0 = s.eear0 ∧ t.esr0 = s.esr0 ∧ ∀ i, i ∉ [SR.F, SR.CY, SR.OV] → t.srBit i = s.srBit i)

theorem confined_enter {s u : State} (h : Untouched s u) (e : Exc) : Confined s (u.enter e) :=
  ⟨(enter_ium u e).trans h.ium, (enter_picsr u e).trans h.picsr, .inl (enter_supervisor u e)⟩

theorem confined_advance {s u : State} (h : Untouched s u) : Confined s u.advance := by
  refine ⟨?_, ?_, .inr ⟨?_, ?_, ?_, fun i hi => ?_⟩⟩
  · rw [advance_ium, h.ium]
  · rw [advance_picsr, h.picsr]
  · rw [advance_epcr0, h.epcr0]
  · rw [advance_eear0, h.eear0]
  · rw [advance_esr0, h.esr0]
  · rw [advance_srBit, h.sr i hi]

theorem confined_jump {s u : State} (h : Untouched s u) (target : Word) : Confined s (u.jump target) :=
  ⟨h.ium, h.picsr, .inr ⟨h.epcr0, h.eear0, h.esr0, h.sr⟩⟩

/-- In user mode l.rfe and l.mtspr do not complete, so an instruction ends in one of the three ways that confine it. -/
theorem exec_confined {i : Instr} {s : State} (hs : s.supervisor = false) : Ensures (Confined s) (exec i s) := by
  have user : s.supervisor ≠ true := by simp [hs]
  exact ensures_exec (execRule_untouched (fun _ hu => confined_advance hu) (fun _ e hu _ => confined_enter hu e)
    (fun _ target hu _ => confined_jump hu target) (fun _ h _ => absurd h user) fun _ _ _ _ h => absurd h user)

/-- Settles O19: after the latch, which clears no PICSR bit, a step from user mode is confined. -/
theorem userModeIsConfined : Obligations.UserModeIsConfined := by
  intro s t h hs
  have user : s.sample.supervisor = false := hs
  obtain ⟨ium, picsr, confined⟩ := ensures_step (P := Confined s.sample) (confined_enter (Untouched.refl _) _)
    (confined_enter (Untouched.refl _) _) (fun _ _ => exec_confined user) t h
  exact ⟨ium, fun j hj => by rw [picsr, sample_picsr_grows s j hj], confined⟩

/-! ## The invariant -/

theorem setBit_notModelled {w : Word} {i : Nat} (b : Bool) (h : w &&& srNotModelled = 0) (hi : i ∈ SR.modelled) :
    setBit w i b &&& srNotModelled = 0 := by
  have small : i < 32 := by revert i; decide
  rw [notModelled_iff] at h ⊢
  intro j hj
  have other : j ≠ i := fun e => hj (e ▸ hi)
  rw [getLsbD_setBit _ _ _ _ small, if_neg other, h j hj]

/-- Trap entry sets SM and clears fields; the fields it clears that are not modelled are clear anyway. -/
theorem handlerSR_notModelled {w : Word} (h : w &&& srNotModelled = 0) : handlerSR w &&& srNotModelled = 0 := by
  rw [notModelled_iff] at h ⊢
  intro j hj
  have other : j ≠ SR.SM := fun e => hj (by rw [e]; decide)
  rw [handlerSR_getLsbD, if_neg other, h j hj, ite_self]

theorem setBit_fo (w : Word) : (setBit w SR.FO true).getLsbD SR.FO = true := by
  rw [getLsbD_setBit _ _ _ _ (by decide), if_pos rfl]

theorem setBit_other_fo {w : Word} {i : Nat} (b : Bool) (hi : i < 32) (hf : SR.FO ≠ i) (h : w.getLsbD SR.FO = true) :
    (setBit w i b).getLsbD SR.FO = true := by
  rw [getLsbD_setBit _ _ _ _ hi, if_neg hf, h]

theorem handlerSR_fo {w : Word} (h : w.getLsbD SR.FO = true) : (handlerSR w).getLsbD SR.FO = true := by
  rw [handlerSR_getLsbD, if_neg (by decide), if_neg (by decide), h]

theorem vector_aligned (sr : Word) (e : Exc) : (vectorBase sr + e.offset).toNat % 4 = 0 := by
  unfold vectorBase
  split <;> cases e <;> simp [Exc.offset]

theorem inv_setSrBit {s : State} {i : Nat} (b : Bool) (h : s.Inv) (hi : i ∈ SR.modelled) (hs : i < 32) (hf : SR.FO ≠ i) :
    (s.setSrBit i b).Inv :=
  { h with srModelled := setBit_notModelled b h.srModelled hi, fixedOne := setBit_other_fo b hs hf h.fixedOne }

theorem inv_setByte {s : State} (a : Word) (v : Byte) (h : s.Inv) : (s.setByte a v).Inv :=
  { h with memory := setByte_wf s a v h.memory, stored := setByte_rising s a v h.stored }

theorem inv_advance {s : State} (h : s.Inv) : s.advance.Inv := by
  have aligned : (s.delay.getD (s.pc + 4)).toNat % 4 = 0 := by
    cases hd : s.delay with
    | none => exact pc_add_aligned s.pc 4 rfl h.pcAligned
    | some t => exact h.targetAligned t hd
  constructor
  · rw [advance_mem]; exact h.memory
  · rw [advance_stored]; exact h.stored
  · rw [advance_pc]; exact aligned
  · intro t ht; rw [advance_delay] at ht; cases ht
  · rw [advance_sr]; exact h.srModelled
  · rw [advance_sr]; exact h.fixedOne
  · rw [advance_ium, advance_build]; exact h.absentLines

theorem inv_jump {s : State} {target : Word} (h : s.Inv) (ht : target.toNat % 4 = 0) : (s.jump target).Inv :=
  { h with
    pcAligned := pc_add_aligned s.pc 4 rfl h.pcAligned
    targetAligned := fun t e => by injection e with e; exact e ▸ ht }

theorem inv_enter {s : State} (h : s.Inv) (e : Exc) : (s.enter e).Inv := by
  have saved : setBit s.readSR SR.DSX s.inSlot &&& srNotModelled = 0 :=
    setBit_notModelled _ (setBit_notModelled _ h.srModelled (by decide)) (by decide)
  constructor
  · rw [enter_mem]; exact h.memory
  · rw [enter_stored]; exact h.stored
  · rw [enter_pc]; exact vector_aligned _ e
  · intro t ht; cases ht
  · rw [enter_sr]; exact handlerSR_notModelled saved
  · rw [enter_sr]; exact handlerSR_fo (setBit_other_fo _ (by decide) (by decide) (setBit_fo _))
  · rw [enter_ium, enter_build]; exact h.absentLines

/-- A return to an aligned EPCR0 with an ESR0 of modelled fields. -/
theorem inv_rfe {s : State} (h : s.Inv) (ha : s.epcr0.toNat % 4 = 0) (he : s.esr0 &&& srNotModelled = 0) :
    State.Inv { s with sr := setBit s.esr0 SR.FO true, pc := s.epcr0, delay := none } :=
  { h with
    pcAligned := ha
    targetAligned := fun t e => by cases e
    srModelled := setBit_notModelled _ he (by decide)
    fixedOne := setBit_fo _ }

theorem and_and_not_self (x m : BitVec 30) : x &&& m &&& ~~~m = 0 := by
  rw [BitVec.and_assoc, BitVec.and_not_self]; exact BitVec.and_zero

theorem inv_writeSpr {s u : State} {v : Word} {r : Spr} (h : s.Inv) (hw : s.writeSpr v r = .ok u) : u.Inv := by
  obtain ⟨-, pc, delay, mem, stored, -, build, -⟩ := writeSpr_same hw
  have sr : u.sr &&& srNotModelled = 0 ∧ u.sr.getLsbD SR.FO = true := by
    obtain same | ⟨-, modelled, written⟩ := writeSpr_sr hw
    · rw [same]; exact ⟨h.srModelled, h.fixedOne⟩
    · rw [written]; exact ⟨setBit_notModelled _ modelled (by decide), setBit_fo _⟩
  have ium : u.ium &&& ~~~iumWired u.build = 0 := by
    rw [build]
    obtain same | written := writeSpr_ium hw
    · rw [same]; exact h.absentLines
    · rw [written]; exact and_and_not_self _ _
  constructor
  · rw [mem]; exact h.memory
  · rw [stored]; exact h.stored
  · rw [pc]; exact h.pcAligned
  · rw [delay]; exact h.targetAligned
  · exact sr.1
  · exact sr.2
  · exact ium

theorem samePlatform_advance {s u : State} (h : SamePlatform s u) : SamePlatform s u.advance := by
  rwa [SamePlatform, advance_memMap, advance_build]

theorem samePlatform_enter {s u : State} (h : SamePlatform s u) (e : Exc) : SamePlatform s (u.enter e) := by
  rwa [SamePlatform, enter_memMap, enter_build]

/-- Every update that an instruction is made of keeps the invariant and the platform. -/
theorem execRule_inv (i : Instr) {s : State} (hs : s.Inv) :
    ExecRule (fun u => u.Inv ∧ SamePlatform s u) (fun u => u.Inv ∧ SamePlatform s u) i s where
  start := ⟨hs, rfl, rfl⟩
  setReg _ _ _ hu _ := ⟨{ hu.1 with }, hu.2⟩
  draw _ hu := ⟨{ hu.1 with }, hu.2⟩
  setCyOv _ _ _ hu :=
    ⟨inv_setSrBit _ (inv_setSrBit _ hu.1 (by decide) (by decide) (by decide)) (by decide) (by decide) (by decide), hu.2⟩
  setFlag _ _ hu := ⟨inv_setSrBit _ hu.1 (by decide) (by decide) (by decide), hu.2⟩
  setAcc _ _ hu := ⟨{ hu.1 with }, hu.2⟩
  setFpFlags _ _ hu := ⟨{ hu.1 with }, hu.2⟩
  setByte _ a v hu := ⟨inv_setByte a v hu.1, hu.2⟩
  advance _ hu := ⟨inv_advance hu.1, samePlatform_advance hu.2⟩
  enter _ e hu _ := ⟨inv_enter hu.1 e, samePlatform_enter hu.2 e⟩
  jump _ _ hu _ ht := ⟨inv_jump hu.1 (ht hs.pcAligned), hu.2⟩
  rfe _ _ ha he _ := ⟨inv_rfe hs ha he, rfl, rfl⟩
  mtspr _ _ _ _ _ r u _ hw := by
    obtain ⟨-, -, -, -, -, memMap, build, -⟩ := writeSpr_same hw
    exact ⟨inv_advance (inv_writeSpr hs hw), samePlatform_advance ⟨memMap, build⟩⟩

/-- Settles O60: sampling keeps the invariant, and so do trap entry and every update of an instruction. -/
theorem stepKeepsInvariant : Obligations.StepKeepsInvariant := by
  intro s t h hs
  have sampled : s.sample.Inv := { hs with }
  exact ensures_step (P := fun u => u.Inv ∧ SamePlatform s u) ⟨inv_enter sampled _, samePlatform_enter ⟨rfl, rfl⟩ _⟩
    ⟨inv_enter sampled _, samePlatform_enter ⟨rfl, rfl⟩ _⟩ (fun i _ => ensures_exec (execRule_inv i sampled)) t h

/-- Settles O59: nothing is listed, stored or pending at reset, and SR holds SM and FO alone. -/
theorem resetMeetsInvariant : Obligations.ResetMeetsInvariant where
  memory := rfl
  stored := rfl
  pcAligned := rfl
  targetAligned _ h := by cases h
  srModelled := by decide
  fixedOne := by decide
  absentLines := BitVec.zero_and

/-- Settles O58: the values of `State.reset`, and SR and PICMR as they read. -/
theorem resetState : Obligations.ResetState :=
  ⟨rfl, rfl, rfl, rfl, rfl, rfl, rfl, rfl⟩

end Sys2Proof.Machine
end

section
/-! PROOFS, 20_memory.md, 30_encoding.md and 60_exceptions.md. How a step begins: the interrupt test, the fetch, words without an
instruction. The instructions that take or end an exception: l.sys, l.trap, l.rfe, and what raises Illegal Instruction. -/

namespace Sys2Proof.Machine

/-! ## The start of a step (10_state.md R25) -/

/-- Settles O7: the interrupt test lets the instruction through, and the fetch reads the word that decodes. -/
theorem stepRunsDecoded : Obligations.StepRunsDecoded := fun _ _ hd hn hf => ⟨step_runs hd hn hf, rfl⟩

/-! ### Words without an instruction (30_encoding.md R79) -/

theorem undecoded_noSuchInstruction {s : State} (hp : s.build.undecoded = .refuse) :
    undecoded .noSuchInstruction s = .refused .noSuchInstruction := by
  simp only [undecoded, hp]

/-- Under the other policy a word that selects no row, a custom one too, raises Illegal Instruction. -/
theorem undecoded_illegal {s : State} {e : DecodeError} (he : e = .customInstruction ∨ e = .noSuchInstruction)
    (hp : s.build.undecoded = .illegal) : undecoded e s = raise .illegal s := by
  obtain rfl | rfl := he <;> simp only [undecoded, hp]

/-- Settles O6: such a word fails to decode as custom or as no instruction, and the policy says what the failure does. -/
theorem unmatchedWords : Obligations.UnmatchedWords := by
  intro s hs hn hf
  have decoded := decodeWord_of_unselected hs
  refine ⟨fun hp => ?_, fun hp => ?_⟩
  · have policy : s.sample.build.undecoded = .refuse := hp
    by_cases hc : isCustom (s.load4 s.pc) = true
    · rw [if_pos hc] at decoded
      rw [if_pos ((isCustom_iff _).mp hc), step_undecoded decoded hn hf, undecoded_customInstruction policy]
    · rw [if_neg hc] at decoded
      rw [if_neg fun h => hc ((isCustom_iff _).mpr h), step_undecoded decoded hn hf, undecoded_noSuchInstruction policy]
  · have policy : s.sample.build.undecoded = .illegal := hp
    have raises : step s = raise .illegal s.sample := by
      split at decoded
      · rw [step_undecoded decoded hn hf, undecoded_illegal (.inl rfl) policy]
      · rw [step_undecoded decoded hn hf, undecoded_illegal (.inr rfl) policy]
    rw [raises]
    exact raise_result .illegal s.sample (by simp [Exc.savesNext])

/-! ### The fetch (20_memory.md R52, R55) -/

theorem fetchInstr_of_unmapped {s : State} (h : s.isMapped s.pc 4 = false) :
    s.fetchInstr = .error (.refused .fetchOutsideMemoryMap) := by simp [State.fetchInstr, h]

theorem fetchInstr_of_device {s : State} (hm : s.isMapped s.pc 4 = true) (hd : s.isMemory s.pc 4 = false) :
    s.fetchInstr = .error (.refused .fetchFromDeviceWindow) := by simp [State.fetchInstr, hm, hd]

/-- Settles O8: the fetch tests the memory map first and for device windows second. -/
theorem fetchStops : Obligations.FetchStops := by
  intro s hn
  refine ⟨fun hu => ?_, fun hm hd => ?_⟩
  · have unmapped : s.sample.isMapped s.sample.pc 4 = false := (exists_unmapped_iff s s.pc 4).mp hu
    exact step_of_fetch_error hn (fetchInstr_of_unmapped unmapped)
  · have mapped : s.sample.isMapped s.sample.pc 4 = true := (isMapped_iff s s.pc 4).mpr hm
    have device : s.sample.isMemory s.sample.pc 4 = false := (exists_device_iff mapped).mp hd
    exact step_of_fetch_error hn (fetchInstr_of_device mapped device)

/-! ### The interrupt test (60_exceptions.md R323) -/

/-- Nothing can be pending: no PIC, interrupts off, or no line latched. -/
def State.InterruptIdle (s : State) : Prop := s.build.hasPic = false ∨ s.srBit SR.IEE = false ∨ s.picsr = 0

theorem interruptIdle_iff (s : State) :
    (!s.srBit SR.IEE || !s.build.hasPic || s.picsr == 0) = true ↔ s.InterruptIdle := by
  simp [State.InterruptIdle]
  tauto

theorem interruptTest_idle {s : State} (take : Bool) (h : s.InterruptIdle) : s.interruptTest take = .none :=
  if_pos ((interruptIdle_iff s).mpr h)

theorem interruptTest_masked {s : State} (take : Bool) (h : ¬s.InterruptIdle) (hm : s.picsr &&& s.picmr = 0) :
    s.interruptTest take = .masked := by
  rw [State.interruptTest, if_neg fun e => h ((interruptIdle_iff s).mp e), if_pos (by simp [hm])]

theorem interruptTest_pending {s : State} (take : Bool) (h : ¬s.InterruptIdle) (hm : s.picsr &&& s.picmr ≠ 0) :
    s.interruptTest take = if take then .take else .none := by
  rw [State.interruptTest, if_neg fun e => h ((interruptIdle_iff s).mp e), if_neg (by simpa using hm)]

/-- Two words have no bit in common when every bit of the one is clear in the other. -/
theorem and_eq_zero_iff (v m : Word) :
    v &&& m = 0 ↔ ∀ i ∈ List.range 32, v.getLsbD i = true → m.getLsbD i = false := by
  constructor
  · intro h i _ hv
    have bit : (v &&& m).getLsbD i = false := by rw [h]; exact BitVec.getLsbD_zero
    simpa [hv] using bit
  · intro h
    apply BitVec.eq_of_getLsbD_eq
    intro i hi
    cases hv : v.getLsbD i with
    | false => simp [hv]
    | true => simp [h i (List.mem_range.mpr hi) hv]

/-- Settles O10: the conditions are those of the interrupt test, read bit by bit, on the state with the lines latched. -/
theorem interruptDecision : Obligations.InterruptDecision := by
  intro s
  split
  · next idle => exact interruptTest_idle _ idle
  · next busy =>
    have notIdle : ¬s.sample.InterruptIdle := busy
    split
    · next hm =>
      have masked := interruptTest_masked s.nextInput.takeIrq notIdle ((and_eq_zero_iff _ _).mpr hm)
      simp only [step, masked]
    · next hm =>
      have pending := interruptTest_pending s.nextInput.takeIrq notIdle fun h => hm ((and_eq_zero_iff _ _).mp h)
      split
      · next take =>
        rw [if_pos take] at pending
        have raises : step s = raise .interrupt s.sample := by simp only [step, pending]
        rw [raises]
        exact raise_result .interrupt s.sample (by simp [Exc.savesNext])
      · next take =>
        rw [State.noInterrupt, pending, if_neg take]

/-! ## Instructions that take an exception -/

theorem raise_refuses {e : Exc} {s : State} (he : e.savesNext = true) (hd : s.delay ≠ none) :
    raise e s = .refused .nextInstructionExceptionInDelaySlot := by
  have slot : s.inSlot = true := by simpa [State.inSlot, Option.isSome_iff_ne_none] using hd
  simp [raise, he, slot]

/-- Settles O13: both only raise, and of the two System Call alone saves the next instruction. -/
theorem systemCallAndTrap : Obligations.SystemCallAndTrap := by
  intro s k
  refine ⟨fun hd => ?_, fun hd => raise_refuses rfl hd, raise_result .trap s (by simp [Exc.savesNext])⟩
  have outside : s.inSlot = false := by simp [State.inSlot, hd]
  exact raise_result .syscall s fun _ => outside

theorem exec_maddS_absent {s : State} (d a b : Reg) (h : s.build.implementsMaddS = false) :
    exec (.maddS d a b) s = raise .illegal s := if_neg (by simp [h])

theorem exec_jalr_link {s : State} (hd : s.delay = none) : exec (.jalr 9) s = raise .illegal s :=
  outsideSlot_completes s _ hd

/-- Settles O14: each of the three raises Illegal Instruction and does nothing else. -/
theorem illegalInstructionCauses : Obligations.IllegalInstructionCauses := by
  intro s d a b p hp hcause
  have raises : exec p.1 s = raise .illegal s := by
    simp only [List.mem_cons, List.not_mem_nil, or_false] at hp
    obtain rfl | rfl | rfl := hp
    · rfl
    · exact exec_maddS_absent d a b hcause
    · exact exec_jalr_link hcause
  rw [raises]
  exact raise_result .illegal s (by simp [Exc.savesNext])

/-! ## l.rfe (48_base_isa_supplement_a.md R214) -/

/-- A write of SR, the pc and the pending target alone. -/
theorem keeps_writeSr (s : State) (v pc : Word) (delay : Option Word) :
    Keeps { sr := List.range 32 } s { s with sr := v, pc := pc, delay := delay } where
  regs _ _ := rfl
  sr i hi := by
    have high : 32 ≤ i := by simpa using hi
    rw [State.srBit, State.srBit, BitVec.getLsbD_of_ge _ _ high, BitVec.getLsbD_of_ge _ _ high]
  mac _ := ⟨rfl, rfl⟩
  saved _ := ⟨rfl, rfl, rfl⟩
  fpcsr _ := rfl
  picmr _ := rfl
  picsr _ := rfl
  memory _ _ := rfl
  stored _ := rfl
  draws _ := rfl
  platform := ⟨rfl, rfl, rfl, rfl⟩

/-- Settles O15: under these conditions none of the tests of l.rfe refuses. -/
theorem rfeReturns : Obligations.RfeReturns := by
  intro s hs hd ha he
  exact ⟨_, returnFromException_completes s hs ha ((notModelled_iff _).mpr he) hd, rfl, rfl, srBit_of_written rfl,
    keeps_writeSr s _ _ _⟩

theorem srWritten_none {v : Word} (h : v &&& srNotModelled ≠ 0) : srWritten v = none := if_neg h

theorem srWritten_some {v : Word} (h : v &&& srNotModelled = 0) : srWritten v = some (setBit v SR.FO true) := if_pos h

theorem returnFromException_misaligned {s : State} (hs : s.supervisor = true) (ha : s.epcr0.toNat % 4 ≠ 0) :
    returnFromException s = .refused .misalignedEpcr0 := by
  simp [returnFromException, hs, alignedTo, ha]

theorem returnFromException_notModelled {s : State} (hs : s.supervisor = true) (ha : s.epcr0.toNat % 4 = 0)
    (he : s.esr0 &&& srNotModelled ≠ 0) : returnFromException s = .refused .srFieldNotModelled := by
  simp [returnFromException, hs, alignedTo, ha, srWritten_none he]

theorem returnFromException_inSlot {s : State} (hs : s.supervisor = true) (ha : s.epcr0.toNat % 4 = 0)
    (he : s.esr0 &&& srNotModelled = 0) (hd : s.delay ≠ none) : returnFromException s = .refused .rfeInDelaySlot := by
  have slot : s.inSlot = true := by simpa [State.inSlot, Option.isSome_iff_ne_none] using hd
  simp [returnFromException, hs, alignedTo, ha, srWritten_some he, slot]

/-- Settles O16: the three tests of l.rfe after the one for the mode, in their order. -/
theorem rfeRefused : Obligations.RfeRefused := by
  intro s hs
  simp only [notModelled_witness]
  split
  · next ha => exact returnFromException_misaligned hs ha
  · next ha =>
    have aligned : s.epcr0.toNat % 4 = 0 := not_not.mp ha
    split
    · next he => exact returnFromException_notModelled hs aligned he
    · next he => exact returnFromException_inSlot hs aligned (not_not.mp he)

end Sys2Proof.Machine
end

section
/-! PROOFS, 43_orbis_jump_register.md and 48_base_isa_supplement_a.md. The jumps and branches outside a delay slot. -/

namespace Sys2Proof.Machine

/-- The byte offset of a field N is four times its signed value. -/
theorem branchOffset_eq (n : BitVec 26) : branchOffset n = BitVec.ofInt 32 (4 * n.toInt) := by
  have bytes : (n ++ 0#2).toInt = 4 * n.toInt := by rw [BitVec.toInt_append_zero]; omega
  rw [branchOffset, BitVec.signExtend, bytes]

theorem branchTarget_eq (s : State) (n : BitVec 26) : s.branchTarget n = s.pc + BitVec.ofInt 32 (4 * n.toInt) := by
  rw [State.branchTarget, branchOffset_eq]

/-- Settles O20: outside a slot both jump, l.jal after it has linked. -/
theorem directJumps : Obligations.DirectJumps := by
  intro s n hd
  rw [← branchTarget_eq]
  exact ⟨⟨_, outsideSlot_completes s _ hd, jump_result s _⟩, ⟨_, outsideSlot_completes s _ hd, link_jump_result s _⟩⟩

theorem branchIf_result {s : State} (c : Bool) (n : BitVec 26) (hd : s.delay = none) :
    ∃ t, branchIf c n s = .next t ∧ Keeps {} s t ∧ JumpsTo (if c then s.branchTarget n else s.pc + 8) s t :=
  ⟨_, outsideSlot_completes s _ hd, (jump_result s _).symm⟩

/-- Settles O21: a branch not taken is a jump to `pc + 8`, so that either way a delay slot follows. -/
theorem conditionalBranches : Obligations.ConditionalBranches := by
  intro s n hd
  rw [← branchTarget_eq]
  refine ⟨branchIf_result (s.srBit SR.F) n hd, ?_⟩
  obtain ⟨t, runs, keeps, jumps⟩ := branchIf_result (!s.srBit SR.F) n hd
  refine ⟨t, runs, keeps, ?_⟩
  cases hF : s.srBit SR.F <;> simpa [hF] using jumps

theorem exec_jr_aligned {s : State} {b : Reg} (hd : s.delay = none) (hb : (s.reg b).toNat % 4 = 0) :
    exec (.jr b) s = .next (s.jump (s.reg b)) :=
  (outsideSlot_completes s _ hd).trans (jumpRegister_aligned s s hb)

/-- Settles O22: both read rB before anything is written. -/
theorem registerJumps : Obligations.RegisterJumps := fun s _ hd hb =>
  ⟨⟨_, exec_jr_aligned hd hb, jump_result s _⟩, fun h9 => ⟨_, exec_jalr_aligned h9 hd hb, link_jump_result s _⟩⟩

end Sys2Proof.Machine
end

section
/-! PROOFS, 40_orbis_add.md, 41_orbis_divide.md, 44_orbis_multiply.md and 49_base_isa_supplement_b.md R241. Results, flags and Range of the
arithmetic instructions. -/

namespace Sys2Proof.Machine

/-! ## Addition, subtraction, multiplication: the write and the flags they end in -/

/-- The instruction ends by writing `result` to rD and the flags `cy` and `ov`, and takes Range where `ov` holds and SR[OVE] = 1. -/
def EndsInArith (i : Instr) (d : Reg) (result : Word) (cy ov : Prop) (s : State) : Prop :=
  ∃ c o : Bool, exec i s = writeReg d result s (finishArith c o o) ∧ (c = true ↔ cy) ∧ (o = true ↔ ov)

theorem EndsInArith.completes {i : Instr} {d : Reg} {v : Word} {cy ov : Prop} {s : State} (h : EndsInArith i d v cy ov s) :
    ArithCompletes i d v cy ov s := by
  obtain ⟨c, o, runs, hc, ho⟩ := h
  exact arith_completes runs hc ho

theorem EndsInArith.traps {i : Instr} {d : Reg} {v : Word} {cy ov : Prop} {s : State} (h : EndsInArith i d v cy ov s) :
    ArithTraps i d v cy ov s := by
  obtain ⟨c, o, runs, hc, ho⟩ := h
  exact arith_traps runs hc ho

theorem EndsInArith.refuses {i : Instr} {v : Word} {cy ov : Prop} {s : State} (h : EndsInArith i 0 v cy ov s) (hv : v ≠ 0) :
    exec i s = .refused .nonZeroWriteToR0 := by
  obtain ⟨c, o, runs, -, -⟩ := h
  rw [runs, writeReg_refuses _ _ fun hw => hv (hw rfl)]

theorem addCarry_iff (x y : Word) (c : Bool) : addCarry x y c = true ↔ 4294967296 ≤ x.toNat + y.toNat + c.toNat :=
  outsideUnsigned_iff _

theorem addOverflow_iff (x y : Word) (c : Bool) : addOverflow x y c = true ↔ SignedOverflow (x.toInt + y.toInt + c.toNat) :=
  outsideSigned_iff _

/-- The four additions differ in the second operand and the carry-in. -/
theorem endsInArith_add (s : State) (d a b : Reg) (i : Half) :
    ∀ p ∈ ([(.add d a b, s.reg b, false), (.addc d a b, s.reg b, s.srBit SR.CY), (.addi d a i, i.signExtend 32, false),
      (.addic d a i, i.signExtend 32, s.srBit SR.CY)] : List (Instr × Word × Bool)),
    EndsInArith p.1 d (s.reg a + p.2.1 + (BitVec.ofBool p.2.2).setWidth 32)
      (4294967296 ≤ (s.reg a).toNat + p.2.1.toNat + p.2.2.toNat) (SignedOverflow ((s.reg a).toInt + p.2.1.toInt + p.2.2.toNat)) s := by
  intro p hp
  have adds : exec p.1 s = addInto d (s.reg a) p.2.1 p.2.2 s := by
    simp only [List.mem_cons, List.not_mem_nil, or_false] at hp
    obtain rfl | rfl | rfl | rfl := hp <;> rfl
  refine ⟨_, _, ?_, addCarry_iff (s.reg a) p.2.1 p.2.2, addOverflow_iff (s.reg a) p.2.1 p.2.2⟩
  rw [adds, addInto, addResult_eq]

theorem endsInArith_sub (s : State) (d a b : Reg) :
    EndsInArith (.sub d a b) d (s.reg a - s.reg b) ((s.reg a).toNat < (s.reg b).toNat)
      (SignedOverflow ((s.reg a).toInt - (s.reg b).toInt)) s :=
  ⟨subCarry (s.reg a) (s.reg b), subOverflow (s.reg a) (s.reg b), by rw [← subResult_eq]; rfl, decide_eq_true_iff, outsideSigned_iff _⟩

theorem endsInArith_mul (s : State) (d a b : Reg) (i : Half) :
    ∀ p ∈ ([(.mul d a b, s.reg b), (.muli d a i, i.signExtend 32)] : List (Instr × Word)),
    EndsInArith p.1 d (s.reg a * p.2) (s.MulCarries (s.reg a) p.2) (SignedOverflow ((s.reg a).toInt * p.2.toInt)) s := by
  intro p hp
  have multiplies : exec p.1 s = mulInto d (s.reg a) p.2 s := by
    simp only [List.mem_cons, List.not_mem_nil, or_false] at hp
    obtain rfl | rfl := hp <;> rfl
  refine ⟨_, _, ?_, mulCarry_iff s (s.reg a) p.2, outsideSigned_iff _⟩
  rw [multiplies, mulInto, mulResult_eq]; rfl

theorem endsInArith_mulu (s : State) (d a b : Reg) :
    EndsInArith (.mulu d a b) d (s.reg a * s.reg b) (4294967296 ≤ (s.reg a).toNat * (s.reg b).toNat) False s :=
  ⟨muluCarry (s.reg a) (s.reg b), false, by rw [← muluResult_eq]; rfl, outsideUnsigned_iff _, by simp⟩

/-- Settles O27: the sum, the carry and the overflow are those of the exact integers. -/
theorem additionResults : Obligations.AdditionResults := fun s d a b i p hp => (endsInArith_add s d a b i p hp).completes

/-- Settles O29: the difference, the borrow and the overflow are those of the exact integers. -/
theorem subtractionResults : Obligations.SubtractionResults := fun s d a b => (endsInArith_sub s d a b).completes

/-- Settles O30: the low 32 bits of the signed and of the unsigned product are one word. -/
theorem multiplyResults : Obligations.MultiplyResults := fun s d a b i =>
  ⟨fun p hp => (endsInArith_mul s d a b i p hp).completes, (endsInArith_mulu s d a b).completes⟩

/-- Settles O31: Range is raised from the state with the writes made, for each of the seven. -/
theorem overflowRaisesRange : Obligations.OverflowRaisesRange := fun s d a b i =>
  ⟨fun p hp => (endsInArith_add s d a b i p hp).traps, (endsInArith_sub s d a b).traps,
    fun p hp => (endsInArith_mul s d a b i p hp).traps⟩

/-! ## Overflow by the signs (40_orbis_add.md R100) -/

/-- A sum overflows when the operands agree in sign and the sum modulo 2^32 does not. -/
theorem signedOverflow_iff_msb (x y : Word) (c : Bool) :
    SignedOverflow (x.toInt + y.toInt + c.toNat) ↔ x.msb = y.msb ∧ (addResult x y c).msb ≠ x.msb := by
  have carry : c.toNat ≤ 1 := Bool.toNat_le c
  have total : (addResult x y c).toNat = (x.toNat + y.toNat + c.toNat) % 4294967296 := by rw [addResult, BitVec.toNat_ofNat]; rfl
  have hx := x.isLt
  have hy := y.isLt
  simp only [BitVec.msb_eq_decide, Ne, decide_eq_decide, total, toInt_cases, SignedOverflow]
  split <;> split <;> omega

/-- Settles O28: SR[OV] tells the overflow of the exact sum, and rD holds the sum modulo 2^32. -/
theorem overflowSignLaw : Obligations.OverflowSignLaw := by
  intro s d a b hd hove ins hins
  obtain ⟨c, runs⟩ : ∃ c, exec ins s = addInto d (s.reg a) (s.reg b) c s := by
    rw [List.mem_pair] at hins
    obtain rfl | rfl := hins
    · exact ⟨false, rfl⟩
    · exact ⟨s.srBit SR.CY, rfl⟩
  have completes : ArithCompletes ins d (addResult (s.reg a) (s.reg b) c) _ _ s :=
    arith_completes runs (addCarry_iff _ _ c) (addOverflow_iff _ _ c)
  obtain ⟨t, next, ⟨result, -, overflow, -⟩, -⟩ := completes (fun h => absurd h hd) (by simp [hove])
  exact ⟨t, next, by rw [overflow, result, signedOverflow_iff_msb]⟩

/-! ## Division (41_orbis_divide.md) -/

theorem eq_sign_natAbs (x : Int) : x = if x < 0 then -(x.natAbs : Int) else x.natAbs := by
  split <;> omega

/-- The signed quotient is that of the magnitudes, negated where the signs differ (log 27). -/
theorem tdiv_eq_sign_mul (x y : Int) :
    x.tdiv y = (if x < 0 ↔ y < 0 then 1 else -1) * ((x.natAbs / y.natAbs : Nat) : Int) := by
  have magnitudes : (x.natAbs : Int).tdiv y.natAbs = ((x.natAbs / y.natAbs : Nat) : Int) := rfl
  calc x.tdiv y
      = (if x < 0 then -(x.natAbs : Int) else x.natAbs).tdiv (if y < 0 then -(y.natAbs : Int) else y.natAbs) := by
        rw [← eq_sign_natAbs x, ← eq_sign_natAbs y]
    _ = (if x < 0 ↔ y < 0 then 1 else -1) * (x.natAbs : Int).tdiv y.natAbs := by
        by_cases hx : x < 0 <;> by_cases hy : y < 0 <;> simp only [hx, hy, if_true, if_false, Int.neg_tdiv, Int.tdiv_neg] <;> simp
    _ = _ := by rw [magnitudes]

/-- The end of a division by a divisor that is not zero clears both flags. -/
theorem finishDiv_nonzero {y : Word} (hy : y ≠ 0) : finishDiv y = finishArith false false false := by
  have : (y == 0) = false := by simpa using hy
  rw [finishDiv, this]

theorem finishDiv_zero : finishDiv 0 = finishArith true false true := rfl

theorem exec_div_quotient {s : State} {a b : Reg} (d : Reg) (hb : s.reg b ≠ 0)
    (hu : ¬(s.reg a = 0x80000000 ∧ s.reg b = 0xFFFFFFFF)) :
    exec (.div d a b) s = writeReg d (divResult (s.reg a) (s.reg b)) s (finishArith false false false) := by
  have quotient : ¬(s.reg b == 0 || divUnrepresentable (s.reg a) (s.reg b)) = true := by
    simpa [divUnrepresentable] using And.intro hb (not_and.mp hu)
  rw [← finishDiv_nonzero hb]
  exact if_neg quotient

theorem exec_divu_quotient {s : State} {a b : Reg} (d : Reg) (hb : s.reg b ≠ 0) :
    exec (.divu d a b) s = writeReg d (divuResult (s.reg a) (s.reg b)) s (finishArith false false false) := by
  rw [← finishDiv_nonzero hb]
  exact if_neg (by simpa using hb)

theorem divResult_eq (x y : Word) : divResult x y =
    BitVec.ofInt 32 ((if x.toInt < 0 ↔ y.toInt < 0 then 1 else -1) * ((x.toInt.natAbs / y.toInt.natAbs : Nat) : Int)) := by
  rw [divResult, tdiv_eq_sign_mul]

/-- Settles O32: with a quotient both divisions end like any arithmetic instruction, with both flags clear. -/
theorem divisionQuotients : Obligations.DivisionQuotients := by
  intro s d a b hb
  refine ⟨fun hu => ?_, arith_completes (exec_divu_quotient d hb) (by simp) (by simp)⟩
  rw [← divResult_eq]
  exact arith_completes (exec_div_quotient d hb hu) (by simp) (by simp)

/-- The divisions without a quotient write a free value. -/
theorem exec_div_open {s : State} {a b : Reg} (d : Reg) (h : s.reg b = 0 ∨ s.reg a = 0x80000000 ∧ s.reg b = 0xFFFFFFFF) :
    exec (.div d a b) s = writeRegFree d s (finishDiv (s.reg b)) :=
  if_pos (by simpa [divUnrepresentable] using h)

theorem exec_divu_open {s : State} {a b : Reg} (d : Reg) (h : s.reg b = 0) :
    exec (.divu d a b) s = writeRegFree d s (finishDiv (s.reg b)) :=
  if_pos (by simpa using h)

theorem writeRegFree_refuses (s : State) (k : State → Result) : writeRegFree 0 s k = .refused .nonZeroWriteToR0 := if_pos rfl

/-- The writes of a division without a quotient. -/
theorem keeps_divisionWrites (s : State) (d : Reg) (v : Word) (cy ov : Bool) :
    Keeps { regs := [d], sr := [SR.CY, SR.OV], draws := true } s ((s.draw.2.setReg d v).setCyOv cy ov) :=
  ((keeps_draw s rfl).trans (keeps_setReg _ v (by simp))).trans (keeps_setCyOv _ _ _ (by simp) (by simp))

/-- A division without a quotient for which Range is not due. -/
theorem openDivision_result {s : State} {d : Reg} {cy range : Bool} (hd : d ≠ 0) (hr : ¬(range = true ∧ s.srBit SR.OVE = true)) :
    ∃ t, writeRegFree d s (finishArith cy false range) = .next t ∧ t.srBit SR.CY = cy ∧ t.srBit SR.OV = false ∧
      Keeps { regs := [d], sr := [SR.CY, SR.OV], draws := true } s t ∧ GoesOn s t := by
  refine ⟨_, ?_, by rw [advance_srBit, setCyOv_cy], by rw [advance_srBit, setCyOv_ov],
    (keeps_divisionWrites s d s.draw.1 cy false).trans (keeps_advance _ _), goesOn_of_same rfl rfl⟩
  rw [writeRegFree_completes s _ hd, finishArith_completes]
  simpa using hr

/-- Settles O33: each of the three writes a free value, with SR[CY] telling a zero divisor, and Range is not due. -/
theorem divisionOpenResults : Obligations.DivisionOpenResults := by
  intro s d a b p hp hcase
  have runs : exec p.1 s = writeRegFree d s (finishArith p.2.2 false p.2.2) ∧ ¬(p.2.2 = true ∧ s.srBit SR.OVE = true) := by
    simp only [List.mem_cons, List.not_mem_nil, or_false] at hp
    obtain rfl | rfl | rfl := hp
    · obtain ⟨zero, ove⟩ := hcase
      exact ⟨by rw [exec_div_open d (.inl zero), zero, finishDiv_zero], by simp [ove]⟩
    · obtain ⟨zero, ove⟩ := hcase
      exact ⟨by rw [exec_divu_open d zero, zero, finishDiv_zero], by simp [ove]⟩
    · have nonzero : s.reg b ≠ 0 := by rw [hcase.2]; decide
      exact ⟨by rw [exec_div_open d (.inr hcase), finishDiv_nonzero nonzero], by simp⟩
  obtain ⟨runs, noRange⟩ := runs
  rw [runs]
  exact ⟨fun hd => openDivision_result hd noRange, fun hd => by rw [hd, writeRegFree_refuses]⟩

/-- Settles O34: the free value and the flags are written before Range is raised, and the write is refused for r0 before that. -/
theorem divisionByZeroRaisesRange : Obligations.DivisionByZeroRaisesRange := by
  intro s d a b hb hove ins hins
  have runs : exec ins s = writeRegFree d s (finishArith true false true) := by
    rw [List.mem_pair] at hins
    obtain rfl | rfl := hins
    · rw [exec_div_open d (.inl hb), hb, finishDiv_zero]
    · rw [exec_divu_open d hb, hb, finishDiv_zero]
  rw [runs]
  split
  · next hd => rw [hd, writeRegFree_refuses]
  · next hd =>
    refine ⟨(s.draw.2.setReg d s.draw.1).setCyOv true false, _, ?_, setCyOv_cy _ _ _, setCyOv_ov _ _ _, rfl, rfl,
      keeps_divisionWrites s d _ _ _, enter_reg _ _ _, enter_entered _ .range, keeps_enter _ _ (fun _ h => h) rfl rfl⟩
    rw [writeRegFree_completes s _ hd, finishArith_traps _ ⟨rfl, by simpa using hove⟩]

end Sys2Proof.Machine
end

section
/-! PROOFS, 42_orbis_find_bit.md, 45_orbis_xori.md and 49_base_isa_supplement_b.md R242 to R262. Bit search, the logical instructions, moves,
extends, shifts and rotates: the value that each writes to rD. -/

namespace Sys2Proof.Machine

/-! ## Logical instructions, moves, extends -/

theorem extractLsb'_low {n : Nat} (x : Word) (h : n ≤ 32) : x.extractLsb' 0 n = x.setWidth n :=
  (BitVec.setWidth_eq_extractLsb' h).symm

theorem extendHalfZero_eq (x : Word) : extendHalfZero x = x &&& 0x0000FFFF := put_extract_low x 16

theorem extendByteZero_eq (x : Word) : extendByteZero x = x &&& 0x000000FF := put_extract_low x 8

theorem extendHalfSigned_eq (x : Word) : extendHalfSigned x = (x.setWidth 16).signExtend 32 := by
  rw [extendHalfSigned, extractLsb'_low x (by decide)]

theorem extendByteSigned_eq (x : Word) : extendByteSigned x = (x.setWidth 8).signExtend 32 := by
  rw [extendByteSigned, extractLsb'_low x (by decide)]

/-- K in the upper half word (48_base_isa_supplement_a.md R206). -/
theorem append_zero_eq_mul (k : Half) : k ++ 0#16 = k.setWidth 32 * 65536 := by
  apply BitVec.eq_of_toNat_eq
  have := BitVec.toNat_append k 0#16
  simp [Nat.shiftLeft_eq] at this
  have small := k.isLt
  rw [this, BitVec.toNat_mul, BitVec.toNat_setWidth]
  simp
  omega

/-- What each of these instructions writes to rD; none of them does more. -/
theorem exec_logic (s : State) (d a b : Reg) (k : Half) :
    ∀ p ∈ ([(.and d a b, s.reg a &&& s.reg b), (.or d a b, s.reg a ||| s.reg b),
      (.xor d a b, s.reg a ^^^ s.reg b), (.andi d a k, s.reg a &&& k.setWidth 32), (.ori d a k, s.reg a ||| k.setWidth 32),
      (.movhi d k, k.setWidth 32 * 65536), (.cmov d a b, if s.srBit SR.F then s.reg a else s.reg b),
      (.exths d a, ((s.reg a).setWidth 16).signExtend 32), (.extbs d a, ((s.reg a).setWidth 8).signExtend 32),
      (.exthz d a, s.reg a &&& 0x0000FFFF), (.extbz d a, s.reg a &&& 0x000000FF),
      (.extws d a, s.reg a), (.extwz d a, s.reg a)] : List (Instr × Word)), exec p.1 s = finishReg d p.2 s := by
  simp only [List.forall_mem_cons, List.not_mem_nil, IsEmpty.forall_iff, implies_true, and_true, ← append_zero_eq_mul,
    ← extendHalfSigned_eq, ← extendByteSigned_eq, ← extendHalfZero_eq, ← extendByteZero_eq]
  exact ⟨rfl, rfl, rfl, rfl, rfl, rfl, rfl, rfl, rfl, rfl, rfl, rfl, rfl⟩

/-- Settles O36: each of them is a write of rD and nothing else. -/
theorem logicAndMoves : Obligations.LogicAndMoves := by
  intro s d a b k p hp hw
  rw [exec_logic s d a b k p hp]
  exact finishReg_result s hw

/-! ## l.xori (45_orbis_xori.md R140) -/

theorem signExtend_eq_setWidth {k : Half} (h : k.getLsbD 15 = false) : k.signExtend 32 = k.setWidth 32 :=
  BitVec.signExtend_eq_setWidth_of_msb_false (by rw [BitVec.msb_eq_getLsbD_last, h])

/-- Bit 15 of K need not be tested: the two extensions agree where it is 0. -/
theorem xorImm_eq (b : Build) (k : Half) : xorImm b k = if b.xoriSignExtend then k.signExtend 32 else k.setWidth 32 := by
  unfold xorImm
  cases hk : k.msb with
  | true => rw [Bool.true_and]; rfl
  | false =>
    rw [Bool.false_and, if_neg Bool.false_ne_true, BitVec.signExtend_eq_setWidth_of_msb_false hk, ite_self]; rfl

theorem exec_xori (s : State) (d a : Reg) (k : Half) : exec (.xori d a k) s =
    finishReg d (s.reg a ^^^ if s.build.xoriSignExtend then k.signExtend 32 else k.setWidth 32) s := by
  rw [← xorImm_eq]; rfl

/-- Settles O37: l.xori is a write of rD, with K extended as the build says. -/
theorem xoriExtensions : Obligations.XoriExtensions := by
  intro s d a k
  refine ⟨fun hw => ?_, signExtend_eq_setWidth⟩
  rw [exec_xori]
  obtain ⟨t, next, result, keeps, goesOn⟩ := finishReg_result s hw
  exact ⟨t, next, keeps, goesOn, result⟩

/-! ## Bit search (42_orbis_find_bit.md R115, R116) -/

/-- The word one more than the index of a bit that was found, 0 when none was. -/
def oneMoreThan (found : Option Nat) : Word := (found.map fun i => BitVec.ofNat 32 (i + 1)).getD 0

theorem findFirstOne_eq (x : Word) : findFirstOne x = oneMoreThan ((List.range 32).find? (x.getLsbD ·)) := by
  unfold findFirstOne oneMoreThan
  cases (List.range 32).find? (x.getLsbD ·) <;> rfl

theorem findLastOne_eq (x : Word) : findLastOne x = oneMoreThan ((List.range 32).reverse.find? (x.getLsbD ·)) := by
  unfold findLastOne oneMoreThan
  cases (List.range 32).reverse.find? (x.getLsbD ·) <;> rfl

theorem getLsbD_zeroWord (i : Nat) : (0 : Word).getLsbD i = false := BitVec.getLsbD_zero

theorem toNat_oneMoreThan {i : Nat} (h : i < 32) : (oneMoreThan (some i)).toNat = i + 1 := by
  change (i + 1) % 4294967296 = i + 1
  omega

/-- A search through all bit positions finds nothing in 0 alone. -/
theorem oneMoreThan_find_eq_zero_iff {l : List Nat} (hl : ∀ i, i ∈ l ↔ i < 32) (x : Word) :
    oneMoreThan (l.find? (x.getLsbD ·)) = 0 ↔ x = 0 := by
  cases hf : l.find? (x.getLsbD ·) with
  | none =>
    refine iff_of_true rfl (BitVec.eq_of_getLsbD_eq fun i hi => ?_)
    rw [getLsbD_zeroWord]
    simpa using List.find?_eq_none.mp hf i ((hl i).mpr hi)
  | some i =>
    have small : i < 32 := (hl i).mp (List.mem_of_find?_eq_some hf)
    have set : x.getLsbD i = true := List.find?_some (p := fun i => x.getLsbD i) hf
    refine iff_of_false (fun h => ?_) fun h => ?_
    · have := toNat_oneMoreThan small
      rw [h] at this
      exact absurd this (by simp)
    · rw [h, getLsbD_zeroWord] at set
      cases set

theorem findFirstOne_eq_zero_iff (x : Word) : findFirstOne x = 0 ↔ x = 0 := by
  rw [findFirstOne_eq]
  exact oneMoreThan_find_eq_zero_iff (fun _ => List.mem_range) x

theorem findLastOne_eq_zero_iff (x : Word) : findLastOne x = 0 ↔ x = 0 := by
  rw [findLastOne_eq]
  exact oneMoreThan_find_eq_zero_iff (fun _ => by rw [List.mem_reverse, List.mem_range]) x

theorem findFirstOne_toNat {x : Word} {i : Nat} (hi : x.getLsbD i = true) (least : ∀ j, j < i → x.getLsbD j = false) :
    (findFirstOne x).toNat = i + 1 := by
  have small : i < 32 := BitVec.lt_of_getLsbD hi
  have found : (List.range 32).find? (x.getLsbD ·) = some i :=
    List.find?_range_eq_some.mpr ⟨hi, List.mem_range.mpr small, fun j hj => by rw [least j hj]; rfl⟩
  rw [findFirstOne_eq, found, toNat_oneMoreThan small]

theorem findLastOne_toNat {x : Word} {i : Nat} (hi : x.getLsbD i = true) (greatest : ∀ j, i < j → x.getLsbD j = false) :
    (findLastOne x).toNat = i + 1 := by
  have small : i < 32 := BitVec.lt_of_getLsbD hi
  have found : (List.range 32).reverse.find? (x.getLsbD ·) = some i := by
    refine List.find?_eq_some_iff_getElem.mpr ⟨hi, 31 - i, by simp; omega, by simp; omega, fun j hj => ?_⟩
    rw [List.getElem_reverse, List.getElem_range, greatest _ (by simp; omega)]; rfl
  rw [findLastOne_eq, found, toNat_oneMoreThan small]

/-- Settles O35: the first bit found from below is the least, the first from above the greatest. -/
theorem findBits : Obligations.FindBits := by
  intro s d a hd
  refine ⟨?_, ?_⟩
  · have writable : Writable d (findFirstOne (s.reg a)) := fun h => (findFirstOne_eq_zero_iff _).mpr (hd h)
    obtain ⟨t, next, result, keeps, goesOn⟩ := finishReg_result s writable
    exact ⟨t, next, keeps, goesOn, fun h => by rw [result, findFirstOne_eq_zero_iff, h],
      fun i hi least => by rw [result, findFirstOne_toNat hi least]⟩
  · have writable : Writable d (findLastOne (s.reg a)) := fun h => (findLastOne_eq_zero_iff _).mpr (hd h)
    obtain ⟨t, next, result, keeps, goesOn⟩ := finishReg_result s writable
    exact ⟨t, next, keeps, goesOn, fun h => by rw [result, findLastOne_eq_zero_iff, h],
      fun i hi greatest => by rw [result, findLastOne_toNat hi greatest]⟩

/-! ## Shifts and rotates (49_base_isa_supplement_b.md R247 to R255) -/

theorem regShiftAmount_eq (b : Word) : regShiftAmount b = b.toNat % 32 := by
  simp [regShiftAmount]

theorem immShiftAmount_eq (l : BitVec 6) : immShiftAmount l = l.toNat % 32 := by
  simp [immShiftAmount]

theorem shiftLeft_eq (x : Word) (n : Nat) : shiftLeft x n = BitVec.ofNat 32 (x.toNat * 2 ^ n) := by
  apply BitVec.eq_of_toNat_eq
  rw [shiftLeft, BitVec.toNat_shiftLeft, BitVec.toNat_ofNat, Nat.shiftLeft_eq]

theorem shiftRightLogical_eq (x : Word) (n : Nat) : shiftRightLogical x n = BitVec.ofNat 32 (x.toNat / 2 ^ n) := by
  rw [shiftRightLogical, ← Nat.shiftRight_eq_div_pow, ← BitVec.toNat_ushiftRight, BitVec.ofNat_toNat, BitVec.setWidth_eq]

theorem shiftRightArith_eq (x : Word) (n : Nat) : shiftRightArith x n = BitVec.ofInt 32 (x.toInt / 2 ^ n) := by
  rw [shiftRightArith, BitVec.sshiftRight, Int.shiftRight_eq_div_pow]
  push_cast
  rfl

theorem rotateRight_bit (x : Word) {n j : Nat} (hn : n < 32) (hj : j < 32) :
    (rotateRight x n).getLsbD j = x.getLsbD ((j + n) % 32) := by
  rw [rotateRight, BitVec.getLsbD_or, BitVec.getLsbD_ushiftRight, BitVec.getLsbD_shiftLeft]
  by_cases h : n + j < 32
  · have inside : (j + n) % 32 = n + j := by omega
    have low : j < 32 - n := by omega
    simp [inside, low]
  · have wrapped : (j + n) % 32 = j - (32 - n) := by omega
    have high : ¬j < 32 - n := by omega
    simp [wrapped, high, hj, BitVec.getLsbD_of_ge x (n + j) (by omega)]

/-- A rotate moves every bit somewhere, so that it gives 0 for 0 alone. -/
theorem rotateRight_eq_zero_iff (x : Word) {n : Nat} (hn : n < 32) : rotateRight x n = 0 ↔ x = 0 := by
  constructor
  · intro h
    apply BitVec.eq_of_getLsbD_eq
    intro i hi
    have source : ((i + 32 - n) % 32 + n) % 32 = i := by omega
    rw [← source, ← rotateRight_bit x hn (Nat.mod_lt _ (by decide)), h, getLsbD_zeroWord, getLsbD_zeroWord]
  · rintro rfl
    simp [rotateRight]

/-- The four instructions shift and rotate `x` by `n` places into rD. -/
structure ShiftsBy (s : State) (d : Reg) (x : Word) (left right arith rotate : Instr) (n : Nat) : Prop where
  amount : n < 32
  left : exec left s = finishReg d (BitVec.ofNat 32 (x.toNat * 2 ^ n)) s
  right : exec right s = finishReg d (BitVec.ofNat 32 (x.toNat / 2 ^ n)) s
  arith : exec arith s = finishReg d (BitVec.ofInt 32 (x.toInt / 2 ^ n)) s
  rotate : exec rotate s = finishReg d (rotateRight x n) s

theorem shiftsBy_reg (s : State) (d a b : Reg) :
    ShiftsBy s d (s.reg a) (.sll d a b) (.srl d a b) (.sra d a b) (.ror d a b) ((s.reg b).toNat % 32) where
  amount := Nat.mod_lt _ (by decide)
  left := by rw [← shiftLeft_eq, ← regShiftAmount_eq]; rfl
  right := by rw [← shiftRightLogical_eq, ← regShiftAmount_eq]; rfl
  arith := by rw [← shiftRightArith_eq, ← regShiftAmount_eq]; rfl
  rotate := by rw [← regShiftAmount_eq]; rfl

theorem shiftsBy_imm (s : State) (d a : Reg) (l : BitVec 6) :
    ShiftsBy s d (s.reg a) (.slli d a l) (.srli d a l) (.srai d a l) (.rori d a l) (l.toNat % 32) where
  amount := Nat.mod_lt _ (by decide)
  left := by rw [← shiftLeft_eq, ← immShiftAmount_eq]; rfl
  right := by rw [← shiftRightLogical_eq, ← immShiftAmount_eq]; rfl
  arith := by rw [← shiftRightArith_eq, ← immShiftAmount_eq]; rfl
  rotate := by rw [← immShiftAmount_eq]; rfl

/-- Settles O38: by register and by immediate, the four shift by the low five bits of the amount. -/
theorem shiftResults : Obligations.ShiftResults := by
  intro s d a b l p hp
  obtain ⟨left, right, arith, rotate, n⟩ := p
  have shifts : ShiftsBy s d (s.reg a) left right arith rotate n := by
    rw [List.mem_pair] at hp
    obtain h | h := hp <;> cases h
    · exact shiftsBy_reg s d a b
    · exact shiftsBy_imm s d a l
  refine ⟨fun q hq hw => ?_, fun hd => ?_⟩
  · have writes : exec q.1 s = finishReg d q.2 s := by
      simp only [List.mem_cons, List.not_mem_nil, or_false] at hq
      obtain rfl | rfl | rfl := hq
      · exact shifts.left
      · exact shifts.right
      · exact shifts.arith
    rw [writes]
    exact finishReg_result s hw
  · have writable : Writable d (rotateRight (s.reg a) n) := fun h => (rotateRight_eq_zero_iff _ shifts.amount).mpr (hd h)
    obtain ⟨t, next, result, keeps, goesOn⟩ := finishReg_result s writable
    exact ⟨t, shifts.rotate.trans next, keeps, goesOn, fun j hj => by rw [result, rotateRight_bit _ shifts.amount hj]⟩

end Sys2Proof.Machine
end

section
/-! PROOFS, 49_base_isa_supplement_b.md R263 to R285, 44_orbis_multiply.md R131 and 48_base_isa_supplement_a.md R205 to R213. The compares,
the multiply-accumulate unit, and the instructions that only go on. -/

namespace Sys2Proof.Machine

/-! ## Compares -/

/-- The instruction writes SR[F], 1 exactly when `outcome` holds, and goes on. -/
def SetsFlag (i : Instr) (outcome : Prop) (s : State) : Prop := ∃ b, exec i s = finishFlag b s ∧ (b = true ↔ outcome)

theorem SetsFlag.result {i : Instr} {outcome : Prop} {s : State} (h : SetsFlag i outcome s) :
    ∃ t, exec i s = .next t ∧ (t.srBit SR.F = true ↔ outcome) ∧ Keeps { sr := [SR.F] } s t ∧ GoesOn s t := by
  obtain ⟨b, runs, hb⟩ := h
  obtain ⟨t, next, flag, keeps, goesOn⟩ := finishFlag_result s b
  exact ⟨t, runs.trans next, by rw [flag, hb], keeps, goesOn⟩

theorem signedImm_toInt (i : Half) : (signedImm i).toInt = i.toInt := BitVec.toInt_signExtend_of_le (by decide)

/-- An immediate with bit 15 clear is the same number sign extended. -/
theorem signedImm_toNat {i : Half} (h : i.msb = false) : (signedImm i).toNat = i.toNat := by
  rw [signedImm, BitVec.signExtend_eq_setWidth_of_msb_false h, BitVec.toNat_setWidth]
  omega

theorem setsFlag_register (s : State) (a b : Reg) : ∀ p ∈ ([
      (.sfeq a b, s.reg a = s.reg b), (.sfne a b, s.reg a ≠ s.reg b),
      (.sfgtu a b, (s.reg a).toNat > (s.reg b).toNat), (.sfgeu a b, (s.reg a).toNat ≥ (s.reg b).toNat),
      (.sfltu a b, (s.reg a).toNat < (s.reg b).toNat), (.sfleu a b, (s.reg a).toNat ≤ (s.reg b).toNat),
      (.sfgts a b, (s.reg a).toInt > (s.reg b).toInt), (.sfges a b, (s.reg a).toInt ≥ (s.reg b).toInt),
      (.sflts a b, (s.reg a).toInt < (s.reg b).toInt), (.sfles a b, (s.reg a).toInt ≤ (s.reg b).toInt)] : List (Instr × Prop)),
    SetsFlag p.1 p.2 s := by
  simp only [List.forall_mem_cons, List.not_mem_nil, IsEmpty.forall_iff, implies_true, and_true]
  refine ⟨⟨_, rfl, beq_iff_eq⟩, ⟨_, rfl, bne_iff_ne⟩, ⟨_, rfl, ?gtu⟩, ⟨_, rfl, ?geu⟩, ⟨_, rfl, ?ltu⟩, ⟨_, rfl, ?leu⟩, ⟨_, rfl, ?gts⟩,
    ⟨_, rfl, ?ges⟩, ⟨_, rfl, ?lts⟩, ⟨_, rfl, ?les⟩⟩
  all_goals exact decide_eq_true_iff

theorem setsFlag_signedImm (s : State) (a : Reg) (i : Half) : ∀ p ∈ ([
      (.sfeqi a i, (s.reg a).toInt = i.toInt), (.sfnei a i, (s.reg a).toInt ≠ i.toInt),
      (.sfgtsi a i, (s.reg a).toInt > i.toInt), (.sfgesi a i, (s.reg a).toInt ≥ i.toInt),
      (.sfltsi a i, (s.reg a).toInt < i.toInt), (.sflesi a i, (s.reg a).toInt ≤ i.toInt)] : List (Instr × Prop)),
    SetsFlag p.1 p.2 s := by
  simp only [List.forall_mem_cons, List.not_mem_nil, IsEmpty.forall_iff, implies_true, and_true, ← signedImm_toInt i,
    BitVec.toInt_inj, BitVec.toInt_ne]
  refine ⟨⟨_, rfl, beq_iff_eq⟩, ⟨_, rfl, bne_iff_ne⟩, ⟨_, rfl, ?gts⟩, ⟨_, rfl, ?ges⟩, ⟨_, rfl, ?lts⟩, ⟨_, rfl, ?les⟩⟩
  all_goals exact decide_eq_true_iff

theorem unsignedCompareImm_completes {i : Half} (h : i.msb = false) (b : Bool) (s : State) :
    unsignedCompareImm i b s = finishFlag b s := if_neg (by simp [h])

theorem setsFlag_unsignedImm (s : State) (a : Reg) {i : Half} (h : i.msb = false) : ∀ p ∈ ([
      (.sfgtui a i, (s.reg a).toNat > i.toNat), (.sfgeui a i, (s.reg a).toNat ≥ i.toNat),
      (.sfltui a i, (s.reg a).toNat < i.toNat), (.sfleui a i, (s.reg a).toNat ≤ i.toNat)] : List (Instr × Prop)),
    SetsFlag p.1 p.2 s := by
  simp only [List.forall_mem_cons, List.not_mem_nil, IsEmpty.forall_iff, implies_true, and_true, ← signedImm_toNat h]
  refine ⟨⟨_, unsignedCompareImm_completes h _ s, ?gtu⟩, ⟨_, unsignedCompareImm_completes h _ s, ?geu⟩,
    ⟨_, unsignedCompareImm_completes h _ s, ?ltu⟩, ⟨_, unsignedCompareImm_completes h _ s, ?leu⟩⟩
  all_goals exact decide_eq_true_iff

/-- Settles O39: each compare writes the outcome of its comparison to SR[F]. -/
theorem compareResults : Obligations.CompareResults := by
  intro s a b i p hp
  have flag : SetsFlag p.1 p.2 s := by
    obtain hp | hp := List.mem_append.mp hp
    · exact List.forall_mem_append.mpr ⟨setsFlag_register s a b, setsFlag_signedImm s a i⟩ p hp
    · split at hp
      · cases hp
      · next h =>
        rw [← BitVec.msb_eq_getLsbD_last, Bool.not_eq_true] at h
        exact setsFlag_unsignedImm s a h p hp
  exact flag.result

/-- Settles O40: all four test bit 15 before they compare. -/
theorem unsignedImmediateRefused : Obligations.UnsignedImmediateRefused := by
  intro s a i hi ins hins
  have msb : i.msb = true := by rwa [BitVec.msb_eq_getLsbD_last]
  simp only [List.mem_cons, List.not_mem_nil, or_false] at hins
  obtain rfl | rfl | rfl | rfl := hins
  all_goals exact if_pos msb

/-! ## The accumulator -/

theorem macTerm_eq (x y : Word) : macTerm x y = BitVec.ofInt 64 (x * y).toInt := by
  rw [macTerm, mulResult_eq, BitVec.signExtend]

/-- A product added to the accumulator, with its sign. -/
theorem acc_add (s : State) (x y : Word) : s.acc + macTerm x y = BitVec.ofInt 64 (s.acc.toInt + 1 * (x * y).toInt) := by
  rw [Int.one_mul, BitVec.ofInt_add, BitVec.ofInt_toInt, macTerm_eq]

theorem acc_sub (s : State) (x y : Word) : s.acc - macTerm x y = BitVec.ofInt 64 (s.acc.toInt + -1 * (x * y).toInt) := by
  rw [Int.neg_one_mul, BitVec.ofInt_add, BitVec.ofInt_toInt, BitVec.ofInt_neg, ← macTerm_eq, BitVec.sub_eq_add_neg]

/-- A write of the accumulator and nothing else. -/
theorem setAcc_result (s : State) (v : BitVec 64) :
    Keeps { mac := true } s (s.setAcc v).advance ∧ GoesOn s (s.setAcc v).advance ∧
      (s.setAcc v).advance.machi ++ (s.setAcc v).advance.maclo = v :=
  ⟨(keeps_setAcc s v rfl).trans (keeps_advance _ _), goesOn_of_same rfl rfl, by rw [advance_machi, advance_maclo]; exact acc_setAcc s v⟩

/-- Settles O41: each of the three writes the accumulator and nothing else. -/
theorem multiplyAccumulate : Obligations.MultiplyAccumulate := by
  intro s a b i p hp
  have runs : exec p.1 s = .next (s.setAcc (BitVec.ofInt 64 (s.acc.toInt + p.2.1 * p.2.2.toInt))).advance := by
    simp only [List.mem_cons, List.not_mem_nil, or_false] at hp
    obtain rfl | rfl | rfl := hp
    · rw [← acc_add]; rfl
    · rw [← acc_add]; rfl
    · rw [← acc_sub]; rfl
  exact ⟨_, runs, setAcc_result s _⟩

/-- Settles O42: rD is written first, then the accumulator is cleared. -/
theorem macReadAndClear : Obligations.MacReadAndClear := by
  intro s d hw
  refine ⟨((s.setReg d s.maclo).setAcc 0).advance,
    writeReg_completes s (fun t => .next (t.setAcc 0).advance) hw, ?_, ?_, ?_, ?_, goesOn_of_same rfl rfl⟩
  · rw [advance_reg, setAcc_reg, reg_setReg_same]
  · rw [advance_machi]; rfl
  · rw [advance_maclo]; rfl
  · exact ((keeps_setReg s _ (by simp)).trans (keeps_setAcc _ 0 rfl)).trans (keeps_advance _ _)

/-! ## No-operations -/

/-- Settles O55: all four advance and do nothing else. -/
theorem noOperations : Obligations.NoOperations := by
  intro s k ins hins
  have runs : exec ins s = .next s.advance := by
    simp only [List.mem_cons, List.not_mem_nil, or_false] at hins
    obtain rfl | rfl | rfl | rfl := hins <;> rfl
  exact ⟨_, runs, keeps_advance _ s, goesOn_advance s⟩

end Sys2Proof.Machine
end

section
/-! PROOFS, 48_base_isa_supplement_a.md R218 to R227 and 20_memory.md. Loads and stores: in memory, misaligned, outside the memory map, in a
device window, and the one byte order that all widths share. -/

namespace Sys2Proof.Machine

/-! ## The forms of the loads and stores -/

/-- The six loads at the address `ea`: how many bytes each reads and what it makes of them. -/
def loadForms (d a : Reg) (i : Half) (ea : Word) : List (Instr × Nat × ((Word → Byte) → Word)) :=
  [(.lwz d a i, 4, fun m => m ea ++ m (ea + 1) ++ m (ea + 2) ++ m (ea + 3)),
    (.lws d a i, 4, fun m => m ea ++ m (ea + 1) ++ m (ea + 2) ++ m (ea + 3)),
    (.lhz d a i, 2, fun m => (m ea ++ m (ea + 1)).setWidth 32), (.lhs d a i, 2, fun m => (m ea ++ m (ea + 1)).signExtend 32),
    (.lbz d a i, 1, fun m => (m ea).setWidth 32), (.lbs d a i, 1, fun m => (m ea).signExtend 32)]

theorem exec_load (s : State) (d a : Reg) (i : Half) :
    ∀ p ∈ loadForms d a i (s.effective a i), exec p.1 s = loadInto p.2.1 d (s.effective a i) p.2.2 s := by
  simp only [loadForms, List.forall_mem_cons, List.not_mem_nil, IsEmpty.forall_iff, implies_true, and_true]
  exact ⟨rfl, rfl, rfl, rfl, rfl, rfl⟩

theorem exec_lbz (s : State) (d a : Reg) (i : Half) : exec (.lbz d a i) s =
    loadInto 1 d (s.effective a i) (fun m => (m (s.effective a i)).setWidth 32) s := rfl

theorem exec_lbs (s : State) (d a : Reg) (i : Half) : exec (.lbs d a i) s =
    loadInto 1 d (s.effective a i) (fun m => (m (s.effective a i)).signExtend 32) s := rfl

theorem exec_sb (s : State) (a b : Reg) (i : Half) : exec (.sb a b i) s =
    withAccess 1 (s.effective a i) s (.next (s.store1 (s.effective a i) ((s.reg b).extractLsb' 0 8)).advance) := rfl

/-- Every load and store tests its access before anything else. -/
theorem exec_access (s : State) (d a b : Reg) (i : Half) :
    ∀ p ∈ ([(.lwz d a i, 4), (.lws d a i, 4), (.sw a b i, 4), (.lhz d a i, 2), (.lhs d a i, 2), (.sh a b i, 2), (.lbz d a i, 1),
        (.lbs d a i, 1), (.sb a b i, 1)] : List (Instr × Nat)),
    ∃ k, exec p.1 s = withAccess p.2 (s.effective a i) s k := by
  simp only [List.forall_mem_cons, List.not_mem_nil, IsEmpty.forall_iff, implies_true, and_true]
  exact ⟨⟨_, rfl⟩, ⟨_, rfl⟩, ⟨_, rfl⟩, ⟨_, rfl⟩, ⟨_, rfl⟩, ⟨_, rfl⟩, ⟨_, rfl⟩, ⟨_, rfl⟩, ⟨_, rfl⟩⟩

theorem mem_span {a : Word} {n k : Nat} (h : k < n) : a + BitVec.ofNat 32 k ∈ span a n :=
  List.mem_map.mpr ⟨k, List.mem_range.mpr h, rfl⟩

theorem self_mem_span (a : Word) {n : Nat} (h : 0 < n) : a ∈ span a n := by
  have first := mem_span (a := a) h
  rwa [show a + BitVec.ofNat 32 0 = a from BitVec.add_zero a] at first

/-- The state `u` differs from `s` in the `n` bytes at `ea` and in the record of what was stored to; over a canonical memory these bytes are
the low bytes of `v`, most significant first. -/
structure StoresBytes (n : Nat) (ea v : Word) (s u : State) : Prop where
  keeps : Keeps { bytes := span ea n } s u
  pc : u.pc = s.pc
  delay : u.delay = s.delay
  bytes : s.mem.wf = true → ∀ j, j < n → u.byteAt (ea + BitVec.ofNat 32 j) = v.extractLsb' (8 * (n - 1 - j)) 8

theorem storesBytes_store1 (s : State) (ea v : Word) : StoresBytes 1 ea v s (s.store1 ea (v.extractLsb' 0 8)) where
  keeps := keeps_setByte s _ (self_mem_span ea (by decide))
  pc := rfl
  delay := rfl
  bytes hs j hj := by
    obtain rfl : j = 0 := by omega
    rw [show ea + BitVec.ofNat 32 0 = ea from BitVec.add_zero ea]
    exact byteAt_setByte_same s ea _ hs

theorem storesBytes_store2 (s : State) (ea v : Word) : StoresBytes 2 ea v s (s.store2 ea (v.extractLsb' 0 16)) where
  keeps := (keeps_setByte s _ (self_mem_span ea (by decide))).trans (keeps_setByte _ _ (mem_span (k := 1) (by decide)))
  pc := rfl
  delay := rfl
  bytes hs j hj := by
    obtain ⟨high, low⟩ := store2_bytes s ea (v.extractLsb' 0 16) hs
    rw [BitVec.extractLsb'_extractLsb'_of_le (by decide)] at high low
    obtain rfl | rfl : j = 0 ∨ j = 1 := by omega
    · rw [show ea + BitVec.ofNat 32 0 = ea from BitVec.add_zero ea]; exact high
    · exact low

theorem storesBytes_store4 (s : State) (ea v : Word) : StoresBytes 4 ea v s (s.store4 ea v) where
  keeps := (((keeps_setByte s _ (self_mem_span ea (by decide))).trans (keeps_setByte _ _ (mem_span (k := 1) (by decide)))).trans
    (keeps_setByte _ _ (mem_span (k := 2) (by decide)))).trans (keeps_setByte _ _ (mem_span (k := 3) (by decide)))
  pc := rfl
  delay := rfl
  bytes hs j hj := by
    obtain ⟨b3, b2, b1, b0⟩ := store4_bytes s ea v hs
    obtain rfl | rfl | rfl | rfl : j = 0 ∨ j = 1 ∨ j = 2 ∨ j = 3 := by omega
    · rw [show ea + BitVec.ofNat 32 0 = ea from BitVec.add_zero ea]; exact b3
    · exact b2
    · exact b1
    · exact b0

theorem exec_store (s : State) (a b : Reg) (i : Half) :
    ∀ p ∈ ([(.sw a b i, 4), (.sh a b i, 2), (.sb a b i, 1)] : List (Instr × Nat)),
    ∃ u, exec p.1 s = withAccess p.2 (s.effective a i) s (.next u.advance) ∧ StoresBytes p.2 (s.effective a i) (s.reg b) s u := by
  simp only [List.forall_mem_cons, List.not_mem_nil, IsEmpty.forall_iff, implies_true, and_true]
  exact ⟨⟨_, rfl, storesBytes_store4 _ _ _⟩, ⟨_, rfl, storesBytes_store2 _ _ _⟩, ⟨_, rfl, storesBytes_store1 _ _ _⟩⟩

/-- A store that completes, in memory or in a device window. -/
theorem store_result {s u : State} {i : Instr} {n : Nat} {ea v : Word} (runs : exec i s = withAccess n ea s (.next u.advance))
    (stores : StoresBytes n ea v s u) (ha : ea.toNat % n = 0) (hm : s.isMapped ea n = true) :
    exec i s = .next u.advance ∧ Keeps { bytes := span ea n } s u.advance ∧ GoesOn s u.advance :=
  ⟨runs.trans (withAccess_completes s _ ha hm), stores.keeps.trans (keeps_advance _ _), goesOn_of_same stores.pc stores.delay⟩

/-! ## In memory -/

/-- A load from memory writes to rD what it makes of memory's bytes. -/
theorem exec_load_memory (s : State) (d a : Reg) (i : Half) :
    ∀ p ∈ (loadForms d a i (s.effective a i)).map fun q => (q.1, q.2.1, q.2.2 s.byteAt),
      (s.effective a i).toNat % p.2.1 = 0 → (∀ x ∈ span (s.effective a i) p.2.1, s.kindAt x = some .memory) →
      exec p.1 s = finishReg d p.2.2 s := by
  intro p hp ha hm
  obtain ⟨q, hq, rfl⟩ := List.mem_map.mp hp
  rw [exec_load s d a i q hq, loadInto_memory d _ s ha ((isMemory_iff _ _ _).mpr hm)]

/-- Settles O43: a load from memory is a write of rD with what the load makes of the bytes. -/
theorem loadResults : Obligations.LoadResults := by
  intro s d a i
  refine ⟨rfl, fun p hp ha hm hw => ?_⟩
  rw [exec_load_memory s d a i p hp ha hm]
  exact finishReg_result s hw

/-- Settles O44: a store in memory writes its bytes and advances. -/
theorem storeResults : Obligations.StoreResults := by
  intro s a b i
  refine ⟨rfl, fun p hp ha hm hs => ?_⟩
  obtain ⟨u, runs, stores⟩ := exec_store s a b i p hp
  obtain ⟨next, keeps, goesOn⟩ := store_result runs stores ha (isMapped_of_isMemory ((isMemory_iff _ _ _).mpr hm))
  exact ⟨_, next, keeps, goesOn, fun j hj => by rw [advance_byteAt, stores.bytes hs j hj]⟩

/-! ## Misaligned, outside the map, in a device window -/

theorem isMapped_one (s : State) (ea : Word) : s.isMapped ea 1 = true ↔ s.kindAt ea ≠ none := by
  rw [isMapped_iff]
  simp [span]

/-- A load inside the map into a register other than r0 completes, wherever it is. -/
theorem load_goesOn {n : Nat} {d : Reg} {ea : Word} (value : (Word → Byte) → Word) {s : State} (hd : d ≠ 0) (ha : ea.toNat % n = 0)
    (hm : s.isMapped ea n = true) : ∃ t, loadInto n d ea value s = .next t ∧ GoesOn s t := by
  have writable (v : Word) : Writable d v := fun h => absurd h hd
  cases hk : s.isMemory ea n with
  | true => exact ⟨_, (loadInto_memory d value s ha hk).trans (finishReg_completes s (writable _)), goesOn_of_same rfl rfl⟩
  | false =>
    exact ⟨_, (loadInto_device d value s ha hm hk).trans (finishReg_completes s.draw.2 (writable _)), goesOn_of_same rfl rfl⟩

/-- Settles O45: the test for alignment comes before the access, and no address is misaligned for a byte. -/
theorem misalignedAccess : Obligations.MisalignedAccess := by
  intro s d a b i
  refine ⟨fun p hp ha => ?_, fun ins hins hm hd => ?_⟩
  · obtain ⟨k, runs⟩ := exec_access s d a b i p
      (List.mem_append_left ([(.lbz d a i, 1), (.lbs d a i, 1), (.sb a b i, 1)] : List (Instr × Nat)) hp)
    obtain ⟨t, next, entered, address, keeps⟩ := alignment_result (s.effective a i) s
    have raises := raise_completes (.alignment (s.effective a i)) s (by simp [Exc.savesNext])
    exact ⟨t, by rw [runs, withAccess_misaligned s k ha, ← raises, next], entered, address, keeps⟩
  · have aligned : (s.effective a i).toNat % 1 = 0 := Nat.mod_one _
    have mapped := (isMapped_one s (s.effective a i)).mpr hm
    simp only [List.mem_cons, List.not_mem_nil, or_false] at hins
    obtain rfl | rfl | rfl := hins
    · rw [exec_lbz]; exact load_goesOn _ hd aligned mapped
    · rw [exec_lbs]; exact load_goesOn _ hd aligned mapped
    · obtain ⟨next, -, goesOn⟩ := store_result (exec_sb s a b i) (storesBytes_store1 s (s.effective a i) (s.reg b)) aligned mapped
      exact ⟨_, next, goesOn⟩

theorem finishReg_refuses {d : Reg} {v : Word} (s : State) (h : d = 0 ∧ v ≠ 0) : finishReg d v s = .refused .nonZeroWriteToR0 :=
  if_pos h

/-- A load with a byte in a device window takes memory's bytes and a free byte for each of the peripheral's. -/
theorem load_device_result {n : Nat} {d : Reg} {ea : Word} (value : (Word → Byte) → Word) {s : State} (ha : ea.toNat % n = 0)
    (hm : s.isMapped ea n = true) (hd : s.isMemory ea n = false) :
    ∃ m : Word → Byte, (∀ x, s.kindAt x = some .memory → m x = s.byteAt x) ∧
      if d = 0 ∧ value m ≠ 0 then loadInto n d ea value s = .refused .nonZeroWriteToR0
      else ∃ t, loadInto n d ea value s = .next t ∧ t.reg d = value m ∧ Keeps { regs := [d], draws := true } s t ∧ GoesOn s t := by
  refine ⟨s.byteRead ea s.draw.1, fun x hx => byteRead_memory hx, ?_⟩
  rw [loadInto_device d value s ha hm hd]
  split
  · next h => exact finishReg_refuses _ h
  · next h =>
    have writable : Writable d (value (s.byteRead ea s.draw.1)) := fun h0 => not_not.mp fun hv => h ⟨h0, hv⟩
    exact ⟨_, finishReg_completes _ writable, by rw [advance_reg, reg_setReg_same],
      ((keeps_draw s rfl).trans (keeps_setReg _ _ (by simp))).trans (keeps_advance _ _), goesOn_of_same rfl rfl⟩

/-- Settles O46: the map is tested after alignment, and inside it a device window stops no load and no store. -/
theorem accessOutsideMemory : Obligations.AccessOutsideMemory := by
  intro s d a b i ea
  refine ⟨fun p hp ha hu => ?_, fun p hp ha hm hd => ?_, fun p hp ha hm _ => ?_⟩
  · obtain ⟨k, runs⟩ := exec_access s d a b i p hp
    rw [runs, withAccess_unmapped s k ha ((exists_unmapped_iff _ _ _).mp hu)]
  · have mapped : s.isMapped ea p.2.1 = true := (isMapped_iff _ _ _).mpr hm
    rw [exec_load s d a i p hp]
    exact load_device_result p.2.2 ha mapped ((exists_device_iff mapped).mp hd)
  · obtain ⟨u, runs, stores⟩ := exec_store s a b i p hp
    exact ⟨_, store_result runs stores ha ((isMapped_iff _ _ _).mpr hm)⟩

/-! ## One byte order for all widths (20_memory.md R51) -/

/-- The most significant byte of a word, as a number. -/
theorem toNat_highByte (v : Word) : ((v.extractLsb' 24 8).setWidth 32).toNat = v.toNat / 16777216 := by
  have := v.isLt
  simp [Nat.shiftRight_eq_div_pow]
  omega

/-- The two low bytes of a word are its low half, as a number. -/
theorem toNat_lowBytes (v : Word) : ((v.extractLsb' 8 8 ++ v.extractLsb' 0 8).setWidth 32).toNat = v.toNat % 65536 := by
  rw [BitVec.extractLsb'_append_extractLsb'_eq_extractLsb' (start₁ := 0) (len₁ := 8) rfl]
  simp
  omega

/-- Settles O47: the bytes that StoreResults says the word store leaves are those that LoadResults says the loads read. -/
theorem bigEndianMixedWidths : Obligations.BigEndianMixedWidths := by
  intro s t a b d e i j hs ha hm hexec hd
  obtain ⟨-, stores⟩ := storeResults s a b i
  obtain ⟨t', completes, keeps, -, bytes⟩ := stores (.sw a b i, 4) List.mem_cons_self ha hm hs
  dsimp only at bytes
  obtain rfl : t = t' := Host.Outcome.next.inj (hexec.symm.trans completes)
  obtain ⟨-, loads⟩ := loadResults t d e j
  have writable (v : Word) : Writable d v := fun h => absurd h hd
  have memory (x : Word) (hx : x ∈ span (s.effective a i) 4) : t.kindAt x = some .memory := by
    rw [State.kindAt, keeps.platform.1]
    exact hm x hx
  have high : t.byteAt (s.effective a i) = (s.reg b).extractLsb' 24 8 := by
    have first := bytes 0 (by decide)
    rw [show s.effective a i + BitVec.ofNat 32 0 = s.effective a i from BitVec.add_zero _] at first
    exact first
  refine ⟨fun he => ?_, fun he => ?_⟩
  · have inMemory : ∀ x ∈ span (t.effective e j) 1, t.kindAt x = some .memory := fun x hx => by
      obtain rfl : x = t.effective e j := by simpa [span] using hx
      rw [he]
      exact memory _ (self_mem_span _ (by decide))
    obtain ⟨u, next, result, -⟩ := loads (.lbz d e j, 1, _) (List.mem_of_getElem? (i := 4) rfl) (Nat.mod_one _) inMemory (writable _)
    exact ⟨u, next, by rw [result, he, high, toNat_highByte]⟩
  · have after : s.effective a i + 2 + 1 = s.effective a i + 3 := by rw [BitVec.add_assoc]; rfl
    have aligned : (t.effective e j).toNat % 2 = 0 := by rw [he]; bv_omega
    have inMemory : ∀ x ∈ span (t.effective e j) 2, t.kindAt x = some .memory := fun x hx => by
      obtain rfl | rfl : x = t.effective e j ∨ x = t.effective e j + 1 := by
        simpa [span, List.range, List.range.loop] using hx
      · rw [he]; exact memory _ (mem_span (k := 2) (by decide))
      · rw [he, after]; exact memory _ (mem_span (k := 3) (by decide))
    obtain ⟨u, next, result, -⟩ := loads (.lhz d e j, 2, _) (List.mem_of_getElem? (i := 2) rfl) aligned inMemory (writable _)
    have low : t.byteAt (s.effective a i + 2) ++ t.byteAt (s.effective a i + 3) =
        (s.reg b).extractLsb' 8 8 ++ (s.reg b).extractLsb' 0 8 := congrArg₂ (· ++ ·) (bytes 2 (by decide)) (bytes 3 (by decide))
    exact ⟨u, next, by rw [result, he, after, low, toNat_lowBytes]⟩

end Sys2Proof.Machine
end

section
/-! PROOFS, 10_state.md R26 to R36 and 48_base_isa_supplement_a.md R215 to R217. What l.mfspr returns, what l.mtspr writes, and which numbers
are refused. -/

namespace Sys2Proof.Machine

/-! ## l.mfspr -/

theorem setBit_upr (w : Word) (b : Bool) : setBit w 9 b = if b then w ||| 0x00000200 else w &&& 0xFFFFFDFF := by
  cases b <;> rfl

/-- Each of the numbers names a register, and what that register reads as; the PIC's two are named where there is a PIC. -/
theorem spr_reads (s : State) : ∀ p ∈ ([(0x0000, s.build.vr),
      (0x0001, if s.build.hasPic then s.build.upr ||| 0x00000200 else s.build.upr &&& 0xFFFFFDFF), (0x0002, s.build.cpucfgr),
      (0x0011, s.sr ||| 0x00008000), (0x0014, s.fpcsr.setWidth 32), (0x0020, s.epcr0), (0x0030, s.eear0), (0x0040, s.esr0),
      (0x2801, s.maclo), (0x2802, s.machi)] ++
      (if s.build.hasPic then [(0x4800, s.picmr), (0x4802, s.picsr)] else []) : List (BitVec 16 × Word)),
    ∃ r, s.sprAt p.1 = .ok r ∧ s.readSpr r = p.2 := by
  rw [List.forall_mem_append]
  constructor
  · simp only [List.forall_mem_cons, List.not_mem_nil, IsEmpty.forall_iff, implies_true, and_true]
    exact ⟨⟨.vr, rfl, rfl⟩, ⟨.upr, rfl, setBit_upr _ _⟩, ⟨.cpucfgr, rfl, rfl⟩, ⟨.sr, rfl, rfl⟩, ⟨.fpcsr, rfl, rfl⟩, ⟨.epcr0, rfl, rfl⟩,
      ⟨.eear0, rfl, rfl⟩, ⟨.esr0, rfl, rfl⟩, ⟨.maclo, rfl, rfl⟩, ⟨.machi, rfl, rfl⟩⟩
  · split
    · next hp =>
      simp only [List.forall_mem_cons, List.not_mem_nil, IsEmpty.forall_iff, implies_true, and_true]
      exact ⟨⟨.picmr, if_pos hp, rfl⟩, ⟨.picsr, if_pos hp, rfl⟩⟩
    · exact fun _ h => absurd h List.not_mem_nil

theorem exec_mfspr {s : State} {a : Reg} {k : Half} (d : Reg) {v : Word} (hs : s.supervisor = true)
    (hr : ∃ r, s.sprAt (s.sprIndex a k) = .ok r ∧ s.readSpr r = v) : exec (.mfspr d a k) s = finishReg d v s := by
  obtain ⟨r, named, rfl⟩ := hr
  exact execMfspr_completes hs named

/-- Settles O48: l.mfspr is a write of rD with what the register reads as. -/
theorem mfsprReads : Obligations.MfsprReads := by
  intro s d a k hs p hp hk hw
  rw [exec_mfspr d hs (hk ▸ spr_reads s p hp)]
  exact finishReg_result s hw

/-! ## l.mtspr -/

/-- Going on changes the pc and the pending target alone. -/
theorem advance_eq (s : State) : s.advance = { s with pc := s.advance.pc, delay := s.advance.delay } := by
  unfold State.advance
  split <;> rfl

theorem exec_mtspr {s : State} {a b : Reg} {k : Half} {u : State} (hs : s.supervisor = true)
    (hr : ∃ r, s.sprAt (s.sprIndex a k) = .ok r ∧ s.writeSpr (s.reg b) r = .ok u) : exec (.mtspr a b k) s = .next u.advance := by
  obtain ⟨r, named, written⟩ := hr
  exact execMtspr_completes hs named written

/-- Settles O49: each of the numbers names a register whose write is a record update and cannot fail. -/
theorem mtsprWrites : Obligations.MtsprWrites := by
  intro s a b k hs p hp hk
  have writes : (∃ r, s.sprAt p.1 = .ok r ∧ s.writeSpr (s.reg b) r = .ok p.2) ∧ p.2.pc = s.pc ∧ p.2.delay = s.delay := by
    simp only [List.mem_cons, List.not_mem_nil, or_false] at hp
    obtain rfl | rfl | rfl | rfl | rfl | rfl := hp
    · refine ⟨⟨.fpcsr, rfl, ?_⟩, rfl, rfl⟩
      rw [← extractLsb'_low _ (by decide)]; rfl
    · exact ⟨⟨.epcr0, rfl, rfl⟩, rfl, rfl⟩
    · exact ⟨⟨.eear0, rfl, rfl⟩, rfl, rfl⟩
    · exact ⟨⟨.esr0, rfl, rfl⟩, rfl, rfl⟩
    · exact ⟨⟨.maclo, rfl, rfl⟩, rfl, rfl⟩
    · exact ⟨⟨.machi, rfl, rfl⟩, rfl, rfl⟩
  obtain ⟨written, pc, delay⟩ := writes
  exact ⟨_, exec_mtspr hs (hk ▸ written), goesOn_of_same pc delay, advance_eq p.2⟩

theorem writeSpr_sr_completes {s : State} {v : Word} (h : v &&& srNotModelled = 0) :
    s.writeSpr v .sr = .ok { s with sr := setBit v SR.FO true } := by
  simp only [State.writeSpr, srWritten_some h]

theorem writeSpr_sr_refuses {s : State} {v : Word} (h : v &&& srNotModelled ≠ 0) : s.writeSpr v .sr = .error .srFieldNotModelled := by
  simp only [State.writeSpr, srWritten_none h]

/-- Settles O50: the write is refused where a bit that is not modelled is set, and else SR takes the value with FO = 1. -/
theorem mtsprSr : Obligations.MtsprSr := by
  intro s a b k hs hk
  have named : s.sprAt (s.sprIndex a k) = .ok .sr := by rw [hk]; rfl
  simp only [notModelled_witness]
  split
  · next h => exact execMtspr_refuses hs named (writeSpr_sr_refuses h)
  · next h =>
    refine ⟨_, execMtspr_completes hs named (writeSpr_sr_completes (not_not.mp h)), fun i => ?_,
      (keeps_writeSr s _ s.pc s.delay).trans (keeps_advance _ _), goesOn_of_same rfl rfl⟩
    rw [advance_srBit, srBit_of_written rfl]

theorem keeps_setPicmr {w : Writes} (s : State) (v : Word) (h : w.picmr = true) : Keeps w s (s.setPicmr v) := by
  constructor <;> try simp [h]

/-- PICMR after a write, bit by bit (10_state.md R34). -/
theorem setPicmr_bit (s : State) (v : Word) {j : Nat} (hj : j < 32) :
    (s.setPicmr v).picmr.getLsbD j = if j < 2 then true else decide (j < s.build.picInts) && v.getLsbD j := by
  rw [picmr_bit _ _ hj, setPicmr_ium, setPicmr_build]
  split
  · rfl
  · next high =>
    have inside : j - 2 < 30 := by omega
    have place : 2 + (j - 2) = j := by omega
    have line : j - 2 + 2 = j := by omega
    rw [BitVec.getLsbD_and, iumWired_bit _ _ inside, BitVec.getLsbD_extractLsb', decide_eq_true inside, place, line]
    cases v.getLsbD j <;> simp

/-- Settles O51: the write of PICMR cannot fail where there is a PIC. -/
theorem mtsprPicmr : Obligations.MtsprPicmr := by
  intro s a b k hs hp hk
  have named : s.sprAt (s.sprIndex a k) = .ok .picmr := by rw [hk]; exact if_pos hp
  refine ⟨_, execMtspr_completes hs named rfl, (keeps_setPicmr s _ rfl).trans (keeps_advance _ _), goesOn_of_same rfl rfl,
    fun j hj => ?_⟩
  rw [← setPicmr_bit s (s.reg b) hj, State.picmr, State.picmr, advance_ium, advance_build]

/-! ## Numbers that are refused -/

/-- The numbers of the registers that l.mtspr writes: the PIC's two where the build has a PIC. -/
def writableSprs (b : Build) : List (BitVec 16) :=
  [0x0011, 0x0014, 0x0020, 0x0030, 0x0040, 0x2801, 0x2802] ++ (if b.hasPic then [0x4800, 0x4802] else [])

/-- Of the numbers outside the first two groups, the PIC's two alone name a register. -/
theorem sprOf_unlisted {n : BitVec 16} (hr : n ∉ ([0x0000, 0x0001, 0x0002] : List (BitVec 16)))
    (hw : n ∉ ([0x0011, 0x0014, 0x0020, 0x0030, 0x0040, 0x2801, 0x2802] : List (BitVec 16))) :
    sprOf n = if n = 0x4800 then some .picmr else if n = 0x4802 then some .picsr else none := by
  simp only [List.mem_cons, List.not_mem_nil, or_false, not_or] at hr hw
  simp only [sprOf, hr, hw, if_false]

/-- A number that is neither read-only nor writable names no register of the build. -/
theorem sprAt_unknown {s : State} {n : BitVec 16} (hr : n ∉ ([0x0000, 0x0001, 0x0002] : List (BitVec 16)))
    (hw : n ∉ writableSprs s.build) : s.sprAt n = .error (sprRefusal n) := by
  rw [writableSprs, List.mem_append, not_or] at hw
  obtain ⟨plain, pic⟩ := hw
  have named := sprOf_unlisted hr plain
  cases hp : s.build.hasPic with
  | true =>
    rw [hp, if_pos rfl, List.mem_pair, not_or] at pic
    obtain ⟨notPicmr, notPicsr⟩ := pic
    rw [if_neg notPicmr, if_neg notPicsr] at named
    simp only [State.sprAt, named]
  | false =>
    by_cases h1 : n = 0x4800
    · subst h1; exact if_neg (by simp [hp])
    · by_cases h2 : n = 0x4802
      · subst h2; exact if_neg (by simp [hp])
      · rw [if_neg h1, if_neg h2] at named
        simp only [State.sprAt, named]

/-- Settles O52: NPC and PPC first, then the read-only registers, then every number that names no register of the build. -/
theorem sprRefusals : Obligations.SprRefusals := by
  intro s d a b k hs
  split
  · next h =>
    have unnamed : s.sprAt (s.sprIndex a k) = .error .npcPpcNotModelled := by
      obtain h | h := h <;> rw [h] <;> rfl
    exact execSpr_unknown hs unnamed d b
  · next hnpc =>
    split
    · next h =>
      have readOnly : ∃ r, s.sprAt (s.sprIndex a k) = .ok r ∧ s.writeSpr (s.reg b) r = .error .sprReadOnly := by
        simp only [List.mem_cons, List.not_mem_nil, or_false] at h
        obtain h | h | h := h <;> rw [h]
        · exact ⟨.vr, rfl, rfl⟩
        · exact ⟨.upr, rfl, rfl⟩
        · exact ⟨.cpucfgr, rfl, rfl⟩
      obtain ⟨r, named, refused⟩ := readOnly
      exact execMtspr_refuses hs named refused
    · next hr =>
      change if s.sprIndex a k ∉ writableSprs s.build then _ else _
      split
      · next h =>
        have unnamed : s.sprAt (s.sprIndex a k) = .error .sprNotModelled := by
          rw [sprAt_unknown hr h, sprRefusal, if_neg hnpc]
        exact execSpr_unknown hs unnamed d b
      · trivial

end Sys2Proof.Machine
end

section
/-! PROOFS, 46_orfpx_orvdx.md R147. lf.madd.s where it is implemented: its writes, then Floating Point when it is enabled and a flag is set. -/

namespace Sys2Proof.Machine

/-- What lf.madd.s computes from rA, rB, the old rD and FPCSR[RM]: the result and the nine flags. -/
def State.fmadd (s : State) (d a b : Reg) : Word × BitVec 9 :=
  Config.fmadd32 (s.reg a) (s.reg b) (s.reg d) (s.fpcsr.extractLsb' 1 2)

theorem exec_maddS {s : State} (d a b : Reg) (h : s.build.implementsMaddS = true) :
    exec (.maddS d a b) s = writeReg d (s.fmadd d a b).1 s (finishFloat (s.fmadd d a b).2) := if_pos h

theorem setFpFlags_fpee (s : State) (flags : BitVec 9) : (s.setFpFlags flags).fpee = s.fpee := by
  rw [State.fpee, setFpFlags_fpcsr, BitVec.getLsbD_append, if_pos (by decide), BitVec.getLsbD_extractLsb']; rfl

theorem finishFloat_goesOn {s : State} {flags : BitVec 9} (h : s.fpee = false ∨ flags = 0) :
    finishFloat flags s = .next (s.setFpFlags flags).advance := by
  have notDue : ¬((s.setFpFlags flags).fpee && flags != 0) = true := by
    rw [setFpFlags_fpee]
    obtain h | h := h <;> simp [h]
  exact if_neg notDue

theorem finishFloat_raises {s : State} {flags : BitVec 9} (he : s.fpee = true) (hf : flags ≠ 0) :
    finishFloat flags s = raise .floatingPoint (s.setFpFlags flags) := by
  have due : ((s.setFpFlags flags).fpee && flags != 0) = true := by
    rw [setFpFlags_fpee]
    simpa [he] using hf
  exact if_pos due

/-- The state `u` is `s` with the result in rD and the flags in FPCSR[11:3]. -/
structure FloatWrites (d : Reg) (r : Word × BitVec 9) (s u : State) : Prop where
  result : u.reg d = r.1
  flags : u.fpcsr.extractLsb' 3 9 = r.2
  mode : u.fpcsr.extractLsb' 0 3 = s.fpcsr.extractLsb' 0 3
  pc : u.pc = s.pc
  delay : u.delay = s.delay
  keeps : Keeps { regs := [d], fpcsr := true } s u

theorem floatWrites_setReg (s : State) (d : Reg) (r : Word × BitVec 9) :
    FloatWrites d r s ((s.setReg d r.1).setFpFlags r.2) where
  result := by rw [setFpFlags_reg, reg_setReg_same]
  flags := by rw [setFpFlags_fpcsr]; exact BitVec.extractLsb'_append_eq_left
  mode := by rw [setFpFlags_fpcsr]; exact BitVec.extractLsb'_append_eq_right
  pc := rfl
  delay := rfl
  keeps := (keeps_setReg s _ (by simp)).trans (keeps_setFpFlags _ _ rfl)

/-- lf.madd.s where Floating Point is not due. -/
theorem exec_maddS_goesOn {s : State} {d a b : Reg} (hi : s.build.implementsMaddS = true) (hw : Writable d (s.fmadd d a b).1)
    (h : s.fpee = false ∨ (s.fmadd d a b).2 = 0) :
    exec (.maddS d a b) s = .next ((s.setReg d (s.fmadd d a b).1).setFpFlags (s.fmadd d a b).2).advance := by
  have sameEnable : (s.setReg d (s.fmadd d a b).1).fpee = s.fpee := rfl
  rw [exec_maddS d a b hi, writeReg_completes s _ hw, finishFloat_goesOn (sameEnable ▸ h)]

/-- lf.madd.s where Floating Point is due. -/
theorem exec_maddS_raises {s : State} {d a b : Reg} (hi : s.build.implementsMaddS = true) (hw : Writable d (s.fmadd d a b).1)
    (he : s.fpee = true) (hf : (s.fmadd d a b).2 ≠ 0) :
    exec (.maddS d a b) s = raise .floatingPoint ((s.setReg d (s.fmadd d a b).1).setFpFlags (s.fmadd d a b).2) := by
  have sameEnable : (s.setReg d (s.fmadd d a b).1).fpee = s.fpee := rfl
  rw [exec_maddS d a b hi, writeReg_completes s _ hw, finishFloat_raises (sameEnable.trans he) hf]

/-- Settles O53: the writes, and then the instruction goes on. -/
theorem multiplyAddSingle : Obligations.MultiplyAddSingle := by
  intro s d a b hi r hw h
  have writes := floatWrites_setReg s d r
  exact ⟨_, exec_maddS_goesOn hi hw h, by rw [advance_reg]; exact writes.result, by rw [advance_fpcsr]; exact writes.flags,
    by rw [advance_fpcsr]; exact writes.mode, writes.keeps.trans (keeps_advance _ _), goesOn_of_same writes.pc writes.delay⟩

/-- Settles O54: Floating Point is raised from the state with the writes made, and saves the next instruction. -/
theorem multiplyAddSingleRaises : Obligations.MultiplyAddSingleRaises := by
  intro s d a b hi r hw he
  have writes := floatWrites_setReg s d r
  split
  · next h =>
    obtain ⟨flag, slot⟩ := h
    rw [exec_maddS_raises hi hw he flag]
    exact raise_refuses rfl (writes.delay ▸ slot)
  · next h =>
    by_cases hf : r.2 = 0
    · refine ⟨_, _, exec_maddS_goesOn hi hw (.inr hf), writes.result, writes.flags, writes.pc, writes.delay, writes.keeps, ?_⟩
      rw [if_pos hf]
      exact ⟨goesOn_of_same writes.pc writes.delay, keeps_advance _ _⟩
    · have outside : s.delay = none := not_not.mp fun hd => h ⟨hf, hd⟩
      obtain ⟨t, next, entered, keeps⟩ := raise_result .floatingPoint ((s.setReg d r.1).setFpFlags r.2) fun _ => by
        rw [State.inSlot, writes.delay, outside]; rfl
      refine ⟨_, t, (exec_maddS_raises hi hw he hf).trans next, writes.result, writes.flags, writes.pc, writes.delay, writes.keeps, ?_⟩
      rw [if_neg hf]
      exact ⟨entered, keeps⟩

end Sys2Proof.Machine
end

section
/-! PROOFS, 10_state.md R22. Every instruction with a D field refuses a non-zero write to r0; for each form, the condition on its operands. -/

namespace Sys2Proof.Machine

/-! ## When a result is not zero -/

theorem append_zero_ne_zero {k : Half} (h : k ≠ 0) : (k ++ 0#16 : Word) ≠ (0 : Word) := fun e => h <| by
  have high : (k ++ 0#16).extractLsb' 16 16 = 0 := by rw [e]; rfl
  rwa [BitVec.extractLsb'_append_eq_left] at high

theorem setWidth_ne_zero {n : Nat} {v : BitVec n} (hn : n ≤ 32) (h : v ≠ 0) : v.setWidth 32 ≠ 0 := fun e => h <| by
  have low : (v.setWidth 32).setWidth n = (0 : Word).setWidth n := congrArg _ e
  rw [BitVec.setWidth_setWidth_of_le _ hn, BitVec.setWidth_eq] at low
  rw [low]
  exact BitVec.setWidth_zero n 32

theorem signExtend_ne_zero {n : Nat} {v : BitVec n} (hn : n ≤ 32) (h : v ≠ 0) : v.signExtend 32 ≠ 0 := fun e => h <| by
  apply BitVec.eq_of_toInt_eq
  rw [← BitVec.toInt_signExtend_of_le hn, e]
  simp

theorem ofNat_ne_zero {n : Nat} (hn : n < 4294967296) (h : n ≠ 0) : BitVec.ofNat 32 n ≠ 0 := fun e => h <| by
  have value : (BitVec.ofNat 32 n).toNat = n := by rw [BitVec.toNat_ofNat]; exact Nat.mod_eq_of_lt hn
  rw [← value, e]; rfl

theorem toNat_div_lt (x : Word) (m : Nat) : x.toNat / m < 4294967296 :=
  Nat.lt_of_le_of_lt (Nat.div_le_self _ _) x.isLt

theorem shiftRightArith_ne_zero {x : Word} {n : Nat} (h : x.toInt / 2 ^ n ≠ 0) : shiftRightArith x n ≠ 0 := fun e => h <| by
  have value : (shiftRightArith x n).toInt = x.toInt / 2 ^ n := by
    rw [shiftRightArith, BitVec.toInt_sshiftRight, Int.shiftRight_eq_div_pow]
    push_cast
    rfl
  rw [← value, e]; rfl

/-! ## The refusals -/

theorem refuses_of_finishReg {i : Instr} {v : Word} {s : State} (h : exec i s = finishReg 0 v s) (hv : v ≠ 0) :
    exec i s = .refused .nonZeroWriteToR0 := h.trans (finishReg_refuses s ⟨rfl, hv⟩)

theorem refuses_of_writeReg {i : Instr} {v : Word} {s : State} {k : State → Result} (h : exec i s = writeReg 0 v s k) (hv : v ≠ 0) :
    exec i s = .refused .nonZeroWriteToR0 := h.trans (writeReg_refuses s k fun hw => hv (hw rfl))

theorem exec_div_r0 {s : State} {a b : Reg} (h : s.reg b = 0 ∨ (s.reg a = 0x80000000 ∧ s.reg b = 0xFFFFFFFF) ∨
    divResult (s.reg a) (s.reg b) ≠ 0) : exec (.div 0 a b) s = .refused .nonZeroWriteToR0 := by
  by_cases hopen : s.reg b = 0 ∨ s.reg a = 0x80000000 ∧ s.reg b = 0xFFFFFFFF
  · rw [exec_div_open 0 hopen, writeRegFree_refuses]
  · obtain ⟨nonzero, representable⟩ := not_or.mp hopen
    have quotient : divResult (s.reg a) (s.reg b) ≠ 0 := (h.resolve_left nonzero).resolve_left representable
    exact refuses_of_writeReg (exec_div_quotient 0 nonzero representable) quotient

theorem exec_divu_r0 {s : State} {a b : Reg} (h : s.reg b = 0 ∨ (s.reg a).toNat / (s.reg b).toNat ≠ 0) :
    exec (.divu 0 a b) s = .refused .nonZeroWriteToR0 := by
  by_cases hb : s.reg b = 0
  · rw [exec_divu_open 0 hb, writeRegFree_refuses]
  · exact refuses_of_writeReg (exec_divu_quotient 0 hb) (ofNat_ne_zero (toNat_div_lt _ _) (h.resolve_left hb))

/-- The four instructions that shift and rotate into r0. -/
theorem ShiftsBy.refuses {s : State} {x : Word} {left right arith rotate : Instr} {n : Nat}
    (h : ShiftsBy s 0 x left right arith rotate n) :
    ∀ p ∈ ([(left, BitVec.ofNat 32 (x.toNat * 2 ^ n) ≠ 0), (right, x.toNat / 2 ^ n ≠ 0), (arith, x.toInt / 2 ^ n ≠ 0),
      (rotate, x ≠ 0)] : List (Instr × Prop)), p.2 → exec p.1 s = .refused .nonZeroWriteToR0 := by
  simp only [List.forall_mem_cons, List.not_mem_nil, IsEmpty.forall_iff, implies_true, and_true]
  refine ⟨fun hv => refuses_of_finishReg h.left hv, fun hv => refuses_of_finishReg h.right ?_, fun hv => refuses_of_finishReg h.arith ?_,
    fun hv => refuses_of_finishReg h.rotate ?_⟩
  · exact ofNat_ne_zero (toNat_div_lt _ _) hv
  · rw [← shiftRightArith_eq]; exact shiftRightArith_ne_zero hv
  · exact fun e => hv ((rotateRight_eq_zero_iff x h.amount).mp e)

theorem arith_refuses_r0 (s : State) (a b : Reg) (i : Half) :
    ∀ p ∈ ([(.add 0 a b, s.reg a + s.reg b ≠ 0), (.addc 0 a b, s.reg a + s.reg b + (BitVec.ofBool (s.srBit SR.CY)).setWidth 32 ≠ 0),
      (.addi 0 a i, s.reg a + i.signExtend 32 ≠ 0),
      (.addic 0 a i, s.reg a + i.signExtend 32 + (BitVec.ofBool (s.srBit SR.CY)).setWidth 32 ≠ 0),
      (.sub 0 a b, s.reg a - s.reg b ≠ 0), (.mul 0 a b, s.reg a * s.reg b ≠ 0), (.muli 0 a i, s.reg a * i.signExtend 32 ≠ 0),
      (.mulu 0 a b, s.reg a * s.reg b ≠ 0)] : List (Instr × Prop)), p.2 → exec p.1 s = .refused .nonZeroWriteToR0 := by
  have sums := endsInArith_add s 0 a b i
  have products := endsInArith_mul s 0 a b i
  simp only [List.forall_mem_cons, List.not_mem_nil, IsEmpty.forall_iff, implies_true, and_true] at sums products ⊢
  obtain ⟨add, addc, addi, addic⟩ := sums
  have noCarry (x y : Word) : x + y + (BitVec.ofBool false).setWidth 32 = x + y := BitVec.add_zero (x + y)
  rw [noCarry] at add addi
  exact ⟨add.refuses, addc.refuses, addi.refuses, addic.refuses, (endsInArith_sub s 0 a b).refuses, products.1.refuses,
    products.2.refuses, (endsInArith_mulu s 0 a b).refuses⟩

theorem bits_refuses_r0 (s : State) (a b : Reg) (k : Half) :
    ∀ p ∈ ([(.ff1 0 a, s.reg a ≠ 0), (.fl1 0 a, s.reg a ≠ 0),
      (.and 0 a b, s.reg a &&& s.reg b ≠ 0), (.or 0 a b, s.reg a ||| s.reg b ≠ 0), (.xor 0 a b, s.reg a ^^^ s.reg b ≠ 0),
      (.andi 0 a k, s.reg a &&& k.setWidth 32 ≠ 0), (.ori 0 a k, s.reg a ||| k.setWidth 32 ≠ 0),
      (.xori 0 a k, s.reg a ^^^ (if s.build.xoriSignExtend then k.signExtend 32 else k.setWidth 32) ≠ 0),
      (.movhi 0 k, k ≠ 0), (.cmov 0 a b, (if s.srBit SR.F then s.reg a else s.reg b) ≠ 0),
      (.exths 0 a, (s.reg a).setWidth 16 ≠ 0), (.exthz 0 a, (s.reg a).setWidth 16 ≠ 0),
      (.extbs 0 a, (s.reg a).setWidth 8 ≠ 0), (.extbz 0 a, (s.reg a).setWidth 8 ≠ 0), (.extws 0 a, s.reg a ≠ 0),
      (.extwz 0 a, s.reg a ≠ 0)] : List (Instr × Prop)), p.2 → exec p.1 s = .refused .nonZeroWriteToR0 := by
  simp only [List.forall_mem_cons, List.not_mem_nil, IsEmpty.forall_iff, implies_true, and_true]
  refine ⟨fun h => refuses_of_finishReg rfl (mt (findFirstOne_eq_zero_iff _).mp h),
    fun h => refuses_of_finishReg rfl (mt (findLastOne_eq_zero_iff _).mp h), refuses_of_finishReg rfl, refuses_of_finishReg rfl,
    refuses_of_finishReg rfl, refuses_of_finishReg rfl, refuses_of_finishReg rfl, refuses_of_finishReg (exec_xori s 0 a k),
    fun h => refuses_of_finishReg rfl (append_zero_ne_zero h), refuses_of_finishReg rfl,
    fun h => refuses_of_finishReg rfl ?exths, fun h => refuses_of_finishReg rfl ?exthz, fun h => refuses_of_finishReg rfl ?extbs,
    fun h => refuses_of_finishReg rfl ?extbz, refuses_of_finishReg rfl, refuses_of_finishReg rfl⟩
  case exths => rw [extendHalfSigned_eq]; exact signExtend_ne_zero (by decide) h
  case exthz => rw [extendHalfZero, extractLsb'_low _ (by decide)]; exact setWidth_ne_zero (by decide) h
  case extbs => rw [extendByteSigned_eq]; exact signExtend_ne_zero (by decide) h
  case extbz => rw [extendByteZero, extractLsb'_low _ (by decide)]; exact setWidth_ne_zero (by decide) h

/-- Settles O56: each form ends in a write of rD, and its condition says that the value written is not zero. -/
theorem nonZeroWriteToR0Refused : Obligations.NonZeroWriteToR0Refused := by
  intro s a b i k l ea fp carry quotient overflow
  refine ⟨?forms, fun hi => ?float, fun p hp ha hm hv => ?loads, fun p hp hs hk hv => ?spr⟩
  case forms =>
    have divisions : ∀ p ∈ ([(.div 0 a b, s.reg b = 0 ∨ overflow ∨ quotient ≠ 0),
        (.divu 0 a b, s.reg b = 0 ∨ (s.reg a).toNat / (s.reg b).toNat ≠ 0)] : List (Instr × Prop)),
        p.2 → exec p.1 s = .refused .nonZeroWriteToR0 := by
      simp only [List.forall_mem_cons, List.not_mem_nil, IsEmpty.forall_iff, implies_true, and_true]
      exact ⟨fun h => exec_div_r0 (by rwa [divResult_eq]), exec_divu_r0⟩
    have macrc : ∀ p ∈ ([(.macrc 0, s.maclo ≠ 0)] : List (Instr × Prop)), p.2 → exec p.1 s = .refused .nonZeroWriteToR0 := by
      rw [List.forall_mem_singleton]
      exact refuses_of_writeReg (k := fun t => .next (t.setAcc 0).advance) rfl
    exact List.forall_mem_append.mpr ⟨arith_refuses_r0 s a b i, List.forall_mem_append.mpr ⟨divisions,
      List.forall_mem_append.mpr ⟨bits_refuses_r0 s a b k, List.forall_mem_append.mpr ⟨(shiftsBy_reg s 0 a b).refuses,
        List.forall_mem_append.mpr ⟨(shiftsBy_imm s 0 a l).refuses, macrc⟩⟩⟩⟩⟩
  case float =>
    by_cases hr : fp.1 = 0
    · exact .inl hr
    · exact .inr (refuses_of_writeReg (exec_maddS 0 a b hi) hr)
  case loads => exact refuses_of_finishReg (exec_load_memory s 0 a i p hp ha hm) hv
  case spr => exact refuses_of_finishReg (exec_mfspr 0 hs (hk ▸ spr_reads s p hp)) hv

end Sys2Proof.Machine
end
